-- ==== Sys2Proof/Word.lean ====
section
/-! DEFINITION. The widths of `00_scope.md` rule R5 as named types. -/

namespace Sys2Proof

/-- A 16-bit register, offset or segment value (R5). -/
abbrev Word := BitVec 16

/-- One byte: a memory cell, a queue entry, a register's byte view (R5). -/
abbrev Byte := BitVec 8

/-- A physical address as the translator gives it: 21 bits, so that no sum wraps (R5, R170). -/
abbrev PhysAddr := BitVec 21

/-- An address on the bus: `LATCH_WIDTH` is 32 bits (R5, R29). -/
abbrev BusAddr := BitVec 32

/-- One command word (`30_encoding.md` rule R81). -/
abbrev CommandWord := BitVec 64

end Sys2Proof
end

