-- ==== Sys2Proof/Config.lean ====
section
/-! DEFINITION. What is fixed for one machine: the constants and the OPEN parameters of `00_scope.md` rule R5.
(The third OPEN parameter, `RESET_STATE`, is the draw that a reset carries: `Machine.ResetDraw`.) -/

namespace Sys2Proof

/-- `ADDRESS_SPACE_SIZE`, 1 MiB (R5, R30, R52). -/
def addressSpaceSize : Nat := 0x100000

/-- What a byte reads as that nothing has written since reset: 0x00 (R33, R62). -/
def erasedByte : Byte := 0x00

/-- `PQ_CAP`: a natural number, or `UNBOUNDED` (R5, D13). That the number is at least 1 is `Params.wf`. -/
inductive QueueCap where
  | unbounded
  | bounded (n : Nat)
  deriving DecidableEq, Repr

/-- `CPU_MODE`: a tag that no rule reads (R5, D20). -/
inductive CpuMode where
  | minimum
  | maximum
  deriving DecidableEq, Repr

/-- The OPEN parameters of one block. -/
structure Params where
  pqCap : QueueCap
  cpuMode : CpuMode
  deriving DecidableEq, Repr

/-- R5: a number given for `PQ_CAP` is at least 1. -/
def Params.wf (p : Params) : Bool :=
  match p.pqCap with
  | .unbounded => true
  | .bounded n => decide (1 ≤ n)

/-- Whether a queue of `len` bytes is within the capacity (R20, R28). -/
def QueueCap.holds (c : QueueCap) (len : Nat) : Bool :=
  match c with
  | .unbounded => true
  | .bounded n => decide (len ≤ n)

/-- The parameters `State.reset` stands with. DESIGN CHOICE (A4), unsafe: R5 leaves both open. `UNBOUNDED` is the
source's own model of the queue (D13). -/
def Params.atReset : Params := { pqCap := .unbounded, cpuMode := .minimum }

end Sys2Proof
end

