-- ==== Sys2Proof/Syntax.lean ====
section
/-! DEFINITION. The commands of the block as syntax: one constructor of `Instr` per row of spec/opcode_table.json. -/

namespace Sys2Proof

/-- The segment registers, in the order of their selector codes 0 to 3 (`10_state.md` rule R22). -/
inductive SegReg where
  | es | cs | ss | ds
  deriving DecidableEq, Repr

/-- The general-purpose registers, in the order of their selector codes 0 to 3 (R24). -/
inductive Gpr where
  | ax | bx | cx | dx
  deriving DecidableEq, Repr

/-- The pointer and index registers, in the order of their selector codes 0 to 3 (R26). -/
inductive PtrReg where
  | sp | bp | si | di
  deriving DecidableEq, Repr

/-- The nine flags CF PF AF ZF SF OF IF DF TF, in the order of their selector codes 0 to 8, by the source's names
(R27). -/
inductive Flag where
  | carry | parity | auxCarry | zero | sign | overflow | interruptEnable | direction | trap
  deriving DecidableEq, Repr

/-- The six addressing modes (`44_address_generation.md` rule R171). -/
inductive AddrMode where
  | fetch | stack | strSrc | strDst | data | bpData
  deriving DecidableEq, Repr

/-- One command (`30_encoding.md` rule R83). The operands are those of rule R85: the translation commands keep `O`
(`o`), `L` (`l`) and `ovr` whatever they hold, since every value of them is legal there. -/
inductive Instr where
  | busLatch (addr : BusAddr)
  | busRead
  | busWrite (v : Byte)
  | xlatFetch (o l : Bool) (ovr : Word)
  | xlatStack (o l : Bool) (ovr off : Word)
  | xlatStrSrc (o l : Bool) (ovr off : Word)
  | xlatStrDst (o l : Bool) (ovr off : Word)
  | xlatData (o l : Bool) (ovr off : Word)
  | xlatBpData (o l : Bool) (ovr off : Word)
  | segRead (r : SegReg)
  | segWrite (r : SegReg) (v : Word)
  | ipRead
  | ipWrite (v : Word)
  | pqPush (b : Byte)
  | pqPop
  | regRead (r : Gpr)
  | regWrite (r : Gpr) (v : Word)
  | regReadLo (r : Gpr)
  | regReadHi (r : Gpr)
  | regWriteLo (r : Gpr) (b : Byte)
  | regWriteHi (r : Gpr) (b : Byte)
  | ptrRead (p : PtrReg)
  | ptrWrite (p : PtrReg) (v : Word)
  | flagRead (f : Flag)
  | flagWrite (f : Flag) (x : Bool)
  deriving DecidableEq, Repr

/-- The translation command of a mode (R83, R171). The fetch mode takes no offset: its row has `imm` zero (R85). -/
def Instr.xlat (mode : AddrMode) (o l : Bool) (ovr off : Word) : Instr :=
  match mode with
  | .fetch => .xlatFetch o l ovr
  | .stack => .xlatStack o l ovr off
  | .strSrc => .xlatStrSrc o l ovr off
  | .strDst => .xlatStrDst o l ovr off
  | .data => .xlatData o l ovr off
  | .bpData => .xlatBpData o l ovr off

end Sys2Proof
end

