-- ==== Sys2Proof/Machine/State.lean ====
section
/-! DEFINITION. The state of the block (`10_state.md`), what a step can end in, and the state after reset. -/

namespace Sys2Proof.Machine

/-- The segment registers `SEG[0..3]` (R22). -/
structure SegFile where
  es : Word
  cs : Word
  ss : Word
  ds : Word
  deriving DecidableEq, Repr

/-- The general-purpose registers `GPR[0..3]`. The byte views are views of these 16 bits (R24, R25). -/
structure GprFile where
  ax : Word
  bx : Word
  cx : Word
  dx : Word
  deriving DecidableEq, Repr

/-- The pointer and index registers `PTR[0..3]` (R26). -/
structure PtrFile where
  sp : Word
  bp : Word
  si : Word
  di : Word
  deriving DecidableEq, Repr

/-- The nine flags `FLAG[0..8]`, independent bits with no packed word (R27). -/
structure FlagBank where
  carry : Bool
  parity : Bool
  auxCarry : Bool
  zero : Bool
  sign : Bool
  overflow : Bool
  interruptEnable : Bool
  direction : Bool
  trap : Bool
  deriving DecidableEq, Repr

/-- `MEM`: the bytes that differ from `erasedByte`, by address, addresses strictly rising (R30). -/
abbrev Memory := List Host.Cell

/-- The canonical form of a memory whose addresses are at least `lo` and below `addressSpaceSize`. -/
def Memory.wfFrom : Nat → Memory → Bool
  | _, [] => true
  | lo, (a, b) :: m => decide (lo ≤ a) && decide (a < addressSpaceSize) && b != erasedByte && Memory.wfFrom (a + 1) m

/-- The canonical form: equal contents are equal lists. -/
def Memory.wf (m : Memory) : Bool := Memory.wfFrom 0 m

/-- The causes of a fault (`60_exceptions.md` rule R230). Codes 5 to 7 never occur (I13), so they have no name here (A7). -/
inductive FaultCause where
  | noFault
  | illegalCommand
  | noAddressLatched
  | outOfRange
  | queueOverflow
  deriving DecidableEq, Repr

/-- The response status `st` (R84). Code 3 never occurs (I13). -/
inductive Status where
  | ok
  | fault
  | refused
  deriving DecidableEq, Repr

/-- The response of one command (R84). -/
structure Response where
  st : Status
  rdata : BitVec 32
  rvalid : Bool
  deriving DecidableEq, Repr

/-- One draw of what a reset leaves open: `RESET_STATE` (R5, R33, D15) and the unspecified `LATCH` (R33, I4). -/
structure ResetDraw where
  seg : SegFile
  ip : Word
  gpr : GprFile
  ptr : PtrFile
  flags : FlagBank
  latch : BusAddr
  deriving DecidableEq, Repr

/-- What the outside world sends: a command word (R80), or reset, a step of its own (R260) that carries its draw. -/
inductive Input where
  | command (w : CommandWord)
  | reset (draw : ResetDraw)
  deriving DecidableEq, Repr

/-- The state record of R20, and the model's own last three fields: the OPEN parameters (R5, R21), the inputs not yet
served, oldest first (R21), and the response of the last command (R84). -/
structure State where
  mem : Memory
  latch : BusAddr
  latchValid : Bool
  seg : SegFile
  ip : Word
  /-- The prefetch queue, head (oldest byte) first (R7, R28). -/
  pq : List Byte
  gpr : GprFile
  ptr : PtrFile
  flags : FlagBank
  faulted : Bool
  fcause : FaultCause
  fcmd : CommandWord
  faddr : BusAddr
  params : Params
  input : List Input
  response : Option Response
  deriving DecidableEq, Repr

/-- Faults that end a run. There is none, so this type has no constructor: the spec describes the entry of every fault
(R233), which is a next state with `faulted` set (A7). -/
inductive Fault where
  deriving DecidableEq, Repr

/-- Refusals that end a run. -/
inductive Refusal where
  /-- Raised by an arm of `exec` that has no meaning yet. Safe: nothing is claimed past it. No arm raises it now. -/
  | notModelled (mnemonic : String)
  deriving DecidableEq, Repr

/-- The outcome of a step or a command. -/
abbrev Result := Host.Outcome State Fault Refusal

/-- Every field at the value R33 gives it, for the parameters `p`, the draw `d` and nothing sent or answered yet. -/
def State.powerOn (p : Params) (d : ResetDraw) : State where
  mem := []
  latch := d.latch
  latchValid := false
  seg := d.seg
  ip := d.ip
  pq := []
  gpr := d.gpr
  ptr := d.ptr
  flags := d.flags
  faulted := false
  fcause := .noFault
  fcmd := 0
  faddr := 0
  params := p
  input := []
  response := none

/-- The draw of `State.reset`: all zero. DESIGN CHOICE (A5, A6), unsafe: R33 leaves every one of these values open. -/
def ResetDraw.zero : ResetDraw where
  seg := { es := 0, cs := 0, ss := 0, ds := 0 }
  ip := 0
  gpr := { ax := 0, bx := 0, cx := 0, dx := 0 }
  ptr := { sp := 0, bp := 0, si := 0, di := 0 }
  flags :=
    { carry := false, parity := false, auxCarry := false, zero := false, sign := false, overflow := false
      interruptEnable := false, direction := false, trap := false }
  latch := 0

/-- The block right after reset (R33, R260), with the draw and parameters named above. -/
def State.reset : State := State.powerOn Params.atReset ResetDraw.zero

end Sys2Proof.Machine
end

