-- ==== Sys2Proof/Machine/Ops.lean ====
section
/-! DEFINITION. The shared operations over memory, registers, the latch, the queue and the response, taking a fault,
being refused, and reset. -/

namespace Sys2Proof.Machine

/-! ### Memory: `MemRead` and `MemWrite` (R8, R115) -/

/-- `MEM[a]`. Memory is indexed below `addressSpaceSize` only; callers check first (R115). -/
def Memory.read : Memory → Nat → Byte
  | [], _ => erasedByte
  | (b, x) :: m, a => if a = b then x else Memory.read m a

/-- `MEM[a] <- v`, keeping the canonical form: a byte equal to `erasedByte` is not listed. -/
def Memory.write : Memory → Nat → Byte → Memory
  | [], a, v => if v = erasedByte then [] else [(a, v)]
  | (b, x) :: m, a, v =>
    if a < b then (if v = erasedByte then (b, x) :: m else (a, v) :: (b, x) :: m)
    else if a = b then (if v = erasedByte then m else (a, v) :: m)
    else (b, x) :: Memory.write m a v

/-! ### Register files (R22, R24, R26) and the inputs -/

def SegFile.get (f : SegFile) : SegReg → Word
  | .es => f.es
  | .cs => f.cs
  | .ss => f.ss
  | .ds => f.ds

def SegFile.set (f : SegFile) (r : SegReg) (v : Word) : SegFile :=
  match r with
  | .es => { f with es := v }
  | .cs => { f with cs := v }
  | .ss => { f with ss := v }
  | .ds => { f with ds := v }

def GprFile.get (f : GprFile) : Gpr → Word
  | .ax => f.ax
  | .bx => f.bx
  | .cx => f.cx
  | .dx => f.dx

def GprFile.set (f : GprFile) (r : Gpr) (v : Word) : GprFile :=
  match r with
  | .ax => { f with ax := v }
  | .bx => { f with bx := v }
  | .cx => { f with cx := v }
  | .dx => { f with dx := v }

def PtrFile.get (f : PtrFile) : PtrReg → Word
  | .sp => f.sp
  | .bp => f.bp
  | .si => f.si
  | .di => f.di

def PtrFile.set (f : PtrFile) (p : PtrReg) (v : Word) : PtrFile :=
  match p with
  | .sp => { f with sp := v }
  | .bp => { f with bp := v }
  | .si => { f with si := v }
  | .di => { f with di := v }

def State.setSeg (s : State) (r : SegReg) (v : Word) : State := { s with seg := s.seg.set r v }

def State.setIp (s : State) (v : Word) : State := { s with ip := v }

def State.setGpr (s : State) (r : Gpr) (v : Word) : State := { s with gpr := s.gpr.set r v }

def State.setPtr (s : State) (p : PtrReg) (v : Word) : State := { s with ptr := s.ptr.set p v }

/-- The inputs still to be served. -/
def State.setInput (s : State) (xs : List Input) : State := { s with input := xs }

/-! ### The bus latch, memory and the queue -/

/-- Latch an address: no check, no masking, the old address is gone (R110, R114). -/
def State.latchAddress (s : State) (a : BusAddr) : State := { s with latch := a, latchValid := true }

/-- Write one byte of memory (R8). -/
def State.writeByte (s : State) (a : Nat) (v : Byte) : State := { s with mem := s.mem.write a v }

def State.setQueue (s : State) (q : List Byte) : State := { s with pq := q }

/-- R205: `PQ_CAP != UNBOUNDED and length(PQ) = PQ_CAP`. -/
def State.queueFull (s : State) : Bool :=
  match s.params.pqCap with
  | .unbounded => false
  | .bounded n => decide (s.pq.length = n)

/-! ### Responses (R84) -/

/-- `respond(rdata, rvalid)` with status `OK` (R8). -/
def State.respond (s : State) (rdata : BitVec 32) (rvalid : Bool) : State :=
  { s with response := some { st := .ok, rdata, rvalid } }

/-- A command that returns a value: `respond(zext_32(v), 1)` (R86). -/
def answer {n : Nat} (v : BitVec n) (s : State) : Result := .next (s.respond (v.setWidth 32) true)

/-- A command that only writes: `respond(0, 0)`. -/
def done (s : State) : Result := .next (s.respond 0 false)

/-! ### Faults (`60_exceptions.md`) -/

/-- `FCAUSE`'s codes (R230). -/
def FaultCause.code : FaultCause → BitVec 3
  | .noFault => 0
  | .illegalCommand => 1
  | .noAddressLatched => 2
  | .outOfRange => 3
  | .queueOverflow => 4

/-- `st`'s codes (R84). -/
def Status.code : Status → BitVec 2
  | .ok => 0
  | .fault => 1
  | .refused => 2

/-- Fault entry (R233) for the command word `w`: the fault status and the response are written and nothing else. There
is no handler: control goes nowhere. -/
def State.takeFault (s : State) (w : CommandWord) (cause : FaultCause) (addr : BusAddr) : State :=
  { s with
    faulted := true
    fcause := cause
    fcmd := w
    faddr := addr
    response := some { st := .fault, rdata := 0, rvalid := false } }

/-- `raise Fault(cause, addr)` (R8). -/
def raise (w : CommandWord) (cause : FaultCause) (addr : BusAddr) (s : State) : Result :=
  .next (s.takeFault w cause addr)

/-- A command while `FAULTED = 1` (R236): answered REFUSED, with no other effect. -/
def State.refuse (s : State) : State :=
  { s with response := some { st := .refused, rdata := 0, rvalid := false } }

/-- The only return from a fault is reset (R240). Reset (R260) sets every field of the spec's record from R33 and the
draw. The parameters and the inputs still to come stay (A1, A4); no command has been answered since (A3). -/
def State.takeReset (s : State) (d : ResetDraw) : State :=
  (State.powerOn s.params d).setInput s.input

end Sys2Proof.Machine
end

