-- ==== Sys2Proof/Machine/Operands.lean ====
section
/-! DEFINITION. The operand forms: byte views, the segment multiplexer, the offset source, the translation formula and
the target of a transfer. -/

namespace Sys2Proof.Machine

/-! ### Byte views of a general-purpose register (R25) -/

/-- `GPR[r][7:0]`. -/
def lowByte (v : Word) : Byte := v.extractLsb' 0 8

/-- `GPR[r][15:8]`. -/
def highByte (v : Word) : Byte := v.extractLsb' 8 8

/-- `(GPR[r] & 0xFF00) | b` (R135). -/
def withLowByte (v : Word) (b : Byte) : Word := (v &&& 0xFF00) ||| b.setWidth 16

/-- `(GPR[r] & 0x00FF) | (zext_16(b) << 8)` (R136). -/
def withHighByte (v : Word) (b : Byte) : Word := (v &&& 0x00FF) ||| (b.setWidth 16 <<< 8)

/-! ### Address generation (`44_address_generation.md`) -/

/-- R170: `(zext_21(seg) << 4) + zext_21(off)`, never reduced modulo 2^20. -/
def physicalAddress (seg off : Word) : PhysAddr := (seg.setWidth 21 <<< 4) + off.setWidth 21

/-- The default segment of a mode (R171). -/
def defaultSeg : AddrMode → SegReg
  | .fetch => .cs
  | .stack => .ss
  | .strSrc => .ds
  | .strDst => .es
  | .data => .ds
  | .bpData => .ss

/-- Whether a mode allows an override (R171, C4, C5). -/
def overridable : AddrMode → Bool
  | .fetch => false
  | .stack => false
  | .strSrc => true
  | .strDst => false
  | .data => true
  | .bpData => true

/-- The segment multiplexer (R171): an override replaces the default, it is never combined with it (R179). -/
def segSel (mode : AddrMode) (o : Bool) (ovr : Word) (s : State) : Word :=
  if overridable mode && o then ovr else s.seg.get (defaultSeg mode)

/-- The offset source (R171, R172): `IP` for the fetch mode, the supplied offset for every other mode. -/
def offsetSel (mode : AddrMode) (off : Word) (s : State) : Word :=
  match mode with
  | .fetch => s.ip
  | .stack | .strSrc | .strDst | .data | .bpData => off

/-- The address a translation command answers (R172). -/
def translatedAddress (mode : AddrMode) (o : Bool) (ovr off : Word) (s : State) : PhysAddr :=
  physicalAddress (segSel mode o ovr s) (offsetSel mode off s)

/-- The common pseudocode of every translation command (R172): with `L = 1` the unmasked address is also latched. -/
def translate (mode : AddrMode) (o l : Bool) (ovr off : Word) (s : State) : Result :=
  let pa := translatedAddress mode o ovr off s
  answer pa (if l then s.latchAddress (pa.setWidth 32) else s)

/-! ### The target of a transfer (R111, R112) -/

/-- The memory address a transfer moves its byte at, or the cause and `FADDR` of the fault it raises: no address
latched before out of range (R237). -/
def transferTarget (s : State) : Except (FaultCause × BusAddr) Nat :=
  if s.latchValid = false then .error (.noAddressLatched, 0)
  else if addressSpaceSize ≤ s.latch.toNat then .error (.outOfRange, s.latch)
  else .ok s.latch.toNat

end Sys2Proof.Machine
end

