-- ==== Sys2Proof/Machine/AddressGeneration.lean ====
section
/-! DEFINITION. The six translation commands (`44_address_generation.md`). None of them faults (R172). -/

namespace Sys2Proof.Machine

/-- `XLAT_FETCH` (R173): `O` and `ovr` are ignored, and there is no supplied offset (`imm` is 0). -/
def execXlatFetch (o l : Bool) (ovr : Word) (s : State) : Result := translate .fetch o l ovr 0 s

/-- `XLAT_STACK` (R174): `O` and `ovr` are ignored. -/
def execXlatStack (o l : Bool) (ovr off : Word) (s : State) : Result := translate .stack o l ovr off s

/-- `XLAT_STRSRC` (R175). -/
def execXlatStrSrc (o l : Bool) (ovr off : Word) (s : State) : Result := translate .strSrc o l ovr off s

/-- `XLAT_STRDST` (R176): `O` and `ovr` are ignored. -/
def execXlatStrDst (o l : Bool) (ovr off : Word) (s : State) : Result := translate .strDst o l ovr off s

/-- `XLAT_DATA` (R177). -/
def execXlatData (o l : Bool) (ovr off : Word) (s : State) : Result := translate .data o l ovr off s

/-- `XLAT_BPDATA` (R178). -/
def execXlatBpData (o l : Bool) (ovr off : Word) (s : State) : Result := translate .bpData o l ovr off s

end Sys2Proof.Machine
end

