-- ==== Sys2Proof/WellFormed.lean ====
section
/-! DEFINITION. The fields of a command word (R81) and their legality (R85). An `Instr` is well-formed by its types:
its selectors are names and its operands have their field's width, so the check stands on the raw fields, and the
decoder is written apart from it (the two agree: `Obligations.LegalWordsExactly`). -/

namespace Sys2Proof

/-- The seven fields of a command word (`30_encoding.md` rule R81). A field not written is 0. -/
structure Fields where
  opc : BitVec 6
  sel : BitVec 4 := 0
  o : Bool := false
  l : Bool := false
  rsv : BitVec 4 := 0
  ovr : BitVec 16 := 0
  imm : BitVec 32 := 0
  deriving DecidableEq, Repr

/-- One row of the table of rule R85: the largest legal `sel`; whether `O`, `L` and `ovr` may hold any value (else they
are 0); and how many low bits of `imm` are an operand (the bits above are 0). -/
structure FieldRule where
  selMax : Nat
  xlatFields : Bool
  immBits : Nat
  deriving DecidableEq, Repr

/-- The table of rule R85 by opcode (R83); `none` for every opcode the map does not list (R90). -/
def fieldRule (opc : BitVec 6) : Option FieldRule :=
  match opc with
  | 0x01#6 => some ⟨0, false, 32⟩
  | 0x02#6 => some ⟨0, false, 0⟩
  | 0x03#6 => some ⟨0, false, 8⟩
  | 0x08#6 => some ⟨0, true, 0⟩
  | 0x09#6 => some ⟨0, true, 16⟩
  | 0x0A#6 => some ⟨0, true, 16⟩
  | 0x0B#6 => some ⟨0, true, 16⟩
  | 0x0C#6 => some ⟨0, true, 16⟩
  | 0x0D#6 => some ⟨0, true, 16⟩
  | 0x10#6 => some ⟨3, false, 0⟩
  | 0x11#6 => some ⟨3, false, 16⟩
  | 0x12#6 => some ⟨0, false, 0⟩
  | 0x13#6 => some ⟨0, false, 16⟩
  | 0x14#6 => some ⟨0, false, 8⟩
  | 0x15#6 => some ⟨0, false, 0⟩
  | 0x18#6 => some ⟨3, false, 0⟩
  | 0x19#6 => some ⟨3, false, 16⟩
  | 0x1A#6 => some ⟨3, false, 0⟩
  | 0x1B#6 => some ⟨3, false, 0⟩
  | 0x1C#6 => some ⟨3, false, 8⟩
  | 0x1D#6 => some ⟨3, false, 8⟩
  | 0x1E#6 => some ⟨3, false, 0⟩
  | 0x1F#6 => some ⟨3, false, 16⟩
  | 0x20#6 => some ⟨8, false, 0⟩
  | 0x21#6 => some ⟨8, false, 1⟩
  | _ => none

/-- A row's checks on the fields, one line each: `rsv`, `sel`, `O`, `L`, `ovr`, `imm` (R85). -/
def FieldRule.admits (r : FieldRule) (f : Fields) : Bool :=
  f.rsv == 0
    && decide (f.sel.toNat ≤ r.selMax)
    && (r.xlatFields || !f.o)
    && (r.xlatFields || !f.l)
    && (r.xlatFields || f.ovr == 0)
    && decide (f.imm.toNat < 2 ^ r.immBits)

/-- R85: the fields of a legal command word. -/
def Fields.legal (f : Fields) : Bool :=
  match fieldRule f.opc with
  | none => false
  | some r => r.admits f

end Sys2Proof
end

