-- ==== Sys2Proof/Decode.lean ====
section
/-! DEFINITION. The decoder, total on every 64-bit word, and the encoder (`30_encoding.md` rules R81 to R90). -/

namespace Sys2Proof

/-- Why a word is illegal (R90, R234). Every one of these is the fault ILLEGAL_COMMAND; the name is not observable. -/
inductive Illegal where
  /-- `opc` is not in the opcode map. -/
  | unassignedOpcode
  /-- `rsv` is not 0. -/
  | reservedBits
  /-- `sel` is out of its row's range. -/
  | selector
  /-- `O`, `L` or `ovr` is not 0 in a command that is no translation. -/
  | xlatFields
  /-- A bit of `imm` that must be 0 is not. -/
  | immediate
  deriving DecidableEq, Repr

/-! ### Words and fields (R81) -/

def Fields.ofWord (w : CommandWord) : Fields where
  opc := w.extractLsb' 58 6
  sel := w.extractLsb' 54 4
  o := w.getLsbD 53
  l := w.getLsbD 52
  rsv := w.extractLsb' 48 4
  ovr := w.extractLsb' 32 16
  imm := w.extractLsb' 0 32

/-- R81: `(opc << 58) | (sel << 54) | (O << 53) | (L << 52) | (rsv << 48) | (ovr << 32) | imm`. -/
def Fields.toWord (f : Fields) : CommandWord :=
  (f.opc.setWidth 64 <<< 58) ||| (f.sel.setWidth 64 <<< 54) ||| ((BitVec.ofBool f.o).setWidth 64 <<< 53)
    ||| ((BitVec.ofBool f.l).setWidth 64 <<< 52) ||| (f.rsv.setWidth 64 <<< 48) ||| (f.ovr.setWidth 64 <<< 32)
    ||| f.imm.setWidth 64

/-! ### Selector codes (R22, R24, R26, R27, R89) -/

def SegReg.code : SegReg → BitVec 4
  | .es => 0
  | .cs => 1
  | .ss => 2
  | .ds => 3

def SegReg.ofCode? (c : BitVec 4) : Option SegReg :=
  match c with
  | 0#4 => some .es
  | 1#4 => some .cs
  | 2#4 => some .ss
  | 3#4 => some .ds
  | _ => none

def Gpr.code : Gpr → BitVec 4
  | .ax => 0
  | .bx => 1
  | .cx => 2
  | .dx => 3

def Gpr.ofCode? (c : BitVec 4) : Option Gpr :=
  match c with
  | 0#4 => some .ax
  | 1#4 => some .bx
  | 2#4 => some .cx
  | 3#4 => some .dx
  | _ => none

def PtrReg.code : PtrReg → BitVec 4
  | .sp => 0
  | .bp => 1
  | .si => 2
  | .di => 3

def PtrReg.ofCode? (c : BitVec 4) : Option PtrReg :=
  match c with
  | 0#4 => some .sp
  | 1#4 => some .bp
  | 2#4 => some .si
  | 3#4 => some .di
  | _ => none

def Flag.code : Flag → BitVec 4
  | .carry => 0
  | .parity => 1
  | .auxCarry => 2
  | .zero => 3
  | .sign => 4
  | .overflow => 5
  | .interruptEnable => 6
  | .direction => 7
  | .trap => 8

def Flag.ofCode? (c : BitVec 4) : Option Flag :=
  match c with
  | 0#4 => some .carry
  | 1#4 => some .parity
  | 2#4 => some .auxCarry
  | 3#4 => some .zero
  | 4#4 => some .sign
  | 5#4 => some .overflow
  | 6#4 => some .interruptEnable
  | 7#4 => some .direction
  | 8#4 => some .trap
  | _ => none

/-! ### Field checks of one row (R85), each passing the operand on -/

/-- `sel` is 0. -/
def Fields.noSel (f : Fields) (k : Except Illegal Instr) : Except Illegal Instr :=
  if f.sel = 0 then k else .error .selector

/-- `sel` is the code of some name. -/
def Fields.withSel {α : Type} (f : Fields) (ofCode? : BitVec 4 → Option α) (k : α → Except Illegal Instr) :
    Except Illegal Instr :=
  match ofCode? f.sel with
  | some a => k a
  | none => .error .selector

/-- `O`, `L` and `ovr` are 0. -/
def Fields.noXlat (f : Fields) (k : Except Illegal Instr) : Except Illegal Instr :=
  if f.o = false ∧ f.l = false ∧ f.ovr = 0 then k else .error .xlatFields

/-- `imm` is 0. -/
def Fields.noImm (f : Fields) (k : Except Illegal Instr) : Except Illegal Instr :=
  if f.imm = 0 then k else .error .immediate

/-- `imm[31:n]` is 0 and `imm[n-1:0]` is the operand, unsigned and unscaled (R86). -/
def Fields.withImm (f : Fields) (n : Nat) (k : BitVec n → Except Illegal Instr) : Except Illegal Instr :=
  if f.imm >>> n = 0 then k (f.imm.setWidth n) else .error .immediate

/-- The decoder on fields: the opcode map of R83 with each row's checks of R85. -/
def decodeFields (f : Fields) : Except Illegal Instr :=
  if f.rsv ≠ 0 then .error .reservedBits
  else match f.opc with
    | 0x01#6 => f.noSel <| f.noXlat <| .ok (.busLatch f.imm)
    | 0x02#6 => f.noSel <| f.noXlat <| f.noImm <| .ok .busRead
    | 0x03#6 => f.noSel <| f.noXlat <| f.withImm 8 fun b => .ok (.busWrite b)
    | 0x08#6 => f.noSel <| f.noImm <| .ok (.xlatFetch f.o f.l f.ovr)
    | 0x09#6 => f.noSel <| f.withImm 16 fun off => .ok (.xlatStack f.o f.l f.ovr off)
    | 0x0A#6 => f.noSel <| f.withImm 16 fun off => .ok (.xlatStrSrc f.o f.l f.ovr off)
    | 0x0B#6 => f.noSel <| f.withImm 16 fun off => .ok (.xlatStrDst f.o f.l f.ovr off)
    | 0x0C#6 => f.noSel <| f.withImm 16 fun off => .ok (.xlatData f.o f.l f.ovr off)
    | 0x0D#6 => f.noSel <| f.withImm 16 fun off => .ok (.xlatBpData f.o f.l f.ovr off)
    | 0x10#6 => f.withSel SegReg.ofCode? fun r => f.noXlat <| f.noImm <| .ok (.segRead r)
    | 0x11#6 => f.withSel SegReg.ofCode? fun r => f.noXlat <| f.withImm 16 fun v => .ok (.segWrite r v)
    | 0x12#6 => f.noSel <| f.noXlat <| f.noImm <| .ok .ipRead
    | 0x13#6 => f.noSel <| f.noXlat <| f.withImm 16 fun v => .ok (.ipWrite v)
    | 0x14#6 => f.noSel <| f.noXlat <| f.withImm 8 fun b => .ok (.pqPush b)
    | 0x15#6 => f.noSel <| f.noXlat <| f.noImm <| .ok .pqPop
    | 0x18#6 => f.withSel Gpr.ofCode? fun r => f.noXlat <| f.noImm <| .ok (.regRead r)
    | 0x19#6 => f.withSel Gpr.ofCode? fun r => f.noXlat <| f.withImm 16 fun v => .ok (.regWrite r v)
    | 0x1A#6 => f.withSel Gpr.ofCode? fun r => f.noXlat <| f.noImm <| .ok (.regReadLo r)
    | 0x1B#6 => f.withSel Gpr.ofCode? fun r => f.noXlat <| f.noImm <| .ok (.regReadHi r)
    | 0x1C#6 => f.withSel Gpr.ofCode? fun r => f.noXlat <| f.withImm 8 fun b => .ok (.regWriteLo r b)
    | 0x1D#6 => f.withSel Gpr.ofCode? fun r => f.noXlat <| f.withImm 8 fun b => .ok (.regWriteHi r b)
    | 0x1E#6 => f.withSel PtrReg.ofCode? fun p => f.noXlat <| f.noImm <| .ok (.ptrRead p)
    | 0x1F#6 => f.withSel PtrReg.ofCode? fun p => f.noXlat <| f.withImm 16 fun v => .ok (.ptrWrite p v)
    | 0x20#6 => f.withSel Flag.ofCode? fun g => f.noXlat <| f.noImm <| .ok (.flagRead g)
    | 0x21#6 => f.withSel Flag.ofCode? fun g => f.noXlat <| f.withImm 1 fun x => .ok (.flagWrite g (x.getLsbD 0))
    | _ => .error .unassignedOpcode

/-- The decoder: every word is an instruction or illegal by name (R80, R85, R90). One command is one word (R82). -/
def decode (w : CommandWord) : Except Illegal Instr :=
  decodeFields (Fields.ofWord w)

/-- The encoder on fields: each command rule's "Encoding" line. -/
def encodeFields : Instr → Fields
  | .busLatch addr => { opc := 0x01, imm := addr }
  | .busRead => { opc := 0x02 }
  | .busWrite v => { opc := 0x03, imm := v.setWidth 32 }
  | .xlatFetch o l ovr => { opc := 0x08, o, l, ovr }
  | .xlatStack o l ovr off => { opc := 0x09, o, l, ovr, imm := off.setWidth 32 }
  | .xlatStrSrc o l ovr off => { opc := 0x0A, o, l, ovr, imm := off.setWidth 32 }
  | .xlatStrDst o l ovr off => { opc := 0x0B, o, l, ovr, imm := off.setWidth 32 }
  | .xlatData o l ovr off => { opc := 0x0C, o, l, ovr, imm := off.setWidth 32 }
  | .xlatBpData o l ovr off => { opc := 0x0D, o, l, ovr, imm := off.setWidth 32 }
  | .segRead r => { opc := 0x10, sel := r.code }
  | .segWrite r v => { opc := 0x11, sel := r.code, imm := v.setWidth 32 }
  | .ipRead => { opc := 0x12 }
  | .ipWrite v => { opc := 0x13, imm := v.setWidth 32 }
  | .pqPush b => { opc := 0x14, imm := b.setWidth 32 }
  | .pqPop => { opc := 0x15 }
  | .regRead r => { opc := 0x18, sel := r.code }
  | .regWrite r v => { opc := 0x19, sel := r.code, imm := v.setWidth 32 }
  | .regReadLo r => { opc := 0x1A, sel := r.code }
  | .regReadHi r => { opc := 0x1B, sel := r.code }
  | .regWriteLo r b => { opc := 0x1C, sel := r.code, imm := b.setWidth 32 }
  | .regWriteHi r b => { opc := 0x1D, sel := r.code, imm := b.setWidth 32 }
  | .ptrRead p => { opc := 0x1E, sel := p.code }
  | .ptrWrite p v => { opc := 0x1F, sel := p.code, imm := v.setWidth 32 }
  | .flagRead f => { opc := 0x20, sel := f.code }
  | .flagWrite f x => { opc := 0x21, sel := f.code, imm := (BitVec.ofBool x).setWidth 32 }

/-- The command word of an instruction. -/
def encode (i : Instr) : CommandWord :=
  (encodeFields i).toWord

/-! ### The rows of spec/opcode_table.json -/

/-- One row: its mnemonic, `match`, `mask` and the largest legal `sel` (its notes and R85). -/
structure OpcodeRow where
  mnemonic : String
  pattern : CommandWord
  mask : CommandWord
  selMax : Nat
  deriving DecidableEq, Repr

def opcodeRowsBus : List OpcodeRow :=
  [⟨"BUS_LATCH", 0x0400000000000000, 0xFFFFFFFF00000000, 0⟩,
   ⟨"BUS_READ", 0x0800000000000000, 0xFFFFFFFFFFFFFFFF, 0⟩,
   ⟨"BUS_WRITE", 0x0C00000000000000, 0xFFFFFFFFFFFFFF00, 0⟩]

def opcodeRowsXlat : List OpcodeRow :=
  [⟨"XLAT_FETCH", 0x2000000000000000, 0xFFCF0000FFFFFFFF, 0⟩,
   ⟨"XLAT_STACK", 0x2400000000000000, 0xFFCF0000FFFF0000, 0⟩,
   ⟨"XLAT_STRSRC", 0x2800000000000000, 0xFFCF0000FFFF0000, 0⟩,
   ⟨"XLAT_STRDST", 0x2C00000000000000, 0xFFCF0000FFFF0000, 0⟩,
   ⟨"XLAT_DATA", 0x3000000000000000, 0xFFCF0000FFFF0000, 0⟩,
   ⟨"XLAT_BPDATA", 0x3400000000000000, 0xFFCF0000FFFF0000, 0⟩]

def opcodeRowsBiu : List OpcodeRow :=
  [⟨"SEG_READ", 0x4000000000000000, 0xFF3FFFFFFFFFFFFF, 3⟩,
   ⟨"SEG_WRITE", 0x4400000000000000, 0xFF3FFFFFFFFF0000, 3⟩,
   ⟨"IP_READ", 0x4800000000000000, 0xFFFFFFFFFFFFFFFF, 0⟩,
   ⟨"IP_WRITE", 0x4C00000000000000, 0xFFFFFFFFFFFF0000, 0⟩,
   ⟨"PQ_PUSH", 0x5000000000000000, 0xFFFFFFFFFFFFFF00, 0⟩,
   ⟨"PQ_POP", 0x5400000000000000, 0xFFFFFFFFFFFFFFFF, 0⟩]

def opcodeRowsRegisters : List OpcodeRow :=
  [⟨"REG_READ", 0x6000000000000000, 0xFF3FFFFFFFFFFFFF, 3⟩,
   ⟨"REG_WRITE", 0x6400000000000000, 0xFF3FFFFFFFFF0000, 3⟩,
   ⟨"REG_READ_LO", 0x6800000000000000, 0xFF3FFFFFFFFFFFFF, 3⟩,
   ⟨"REG_READ_HI", 0x6C00000000000000, 0xFF3FFFFFFFFFFFFF, 3⟩,
   ⟨"REG_WRITE_LO", 0x7000000000000000, 0xFF3FFFFFFFFFFF00, 3⟩,
   ⟨"REG_WRITE_HI", 0x7400000000000000, 0xFF3FFFFFFFFFFF00, 3⟩,
   ⟨"PTR_READ", 0x7800000000000000, 0xFF3FFFFFFFFFFFFF, 3⟩,
   ⟨"PTR_WRITE", 0x7C00000000000000, 0xFF3FFFFFFFFF0000, 3⟩]

def opcodeRowsFlags : List OpcodeRow :=
  [⟨"FLAG_READ", 0x8000000000000000, 0xFC3FFFFFFFFFFFFF, 8⟩,
   ⟨"FLAG_WRITE", 0x8400000000000000, 0xFC3FFFFFFFFFFFFE, 8⟩]

/-- The opcode table, row for row. The decoder does not read it; that the two agree is an obligation. -/
def opcodeTable : List OpcodeRow :=
  opcodeRowsBus ++ opcodeRowsXlat ++ opcodeRowsBiu ++ opcodeRowsRegisters ++ opcodeRowsFlags

/-- A word is a row's command when its masked bits are the row's and its `sel` is in the row's range. -/
def OpcodeRow.covers (r : OpcodeRow) (w : CommandWord) : Bool :=
  w &&& r.mask == r.pattern && decide ((Fields.ofWord w).sel.toNat ≤ r.selMax)

/-- The row's mnemonic of each command (R83). -/
def Instr.mnemonic : Instr → String
  | .busLatch _ => "BUS_LATCH"
  | .busRead => "BUS_READ"
  | .busWrite _ => "BUS_WRITE"
  | .xlatFetch _ _ _ => "XLAT_FETCH"
  | .xlatStack _ _ _ _ => "XLAT_STACK"
  | .xlatStrSrc _ _ _ _ => "XLAT_STRSRC"
  | .xlatStrDst _ _ _ _ => "XLAT_STRDST"
  | .xlatData _ _ _ _ => "XLAT_DATA"
  | .xlatBpData _ _ _ _ => "XLAT_BPDATA"
  | .segRead _ => "SEG_READ"
  | .segWrite _ _ => "SEG_WRITE"
  | .ipRead => "IP_READ"
  | .ipWrite _ => "IP_WRITE"
  | .pqPush _ => "PQ_PUSH"
  | .pqPop => "PQ_POP"
  | .regRead _ => "REG_READ"
  | .regWrite _ _ => "REG_WRITE"
  | .regReadLo _ => "REG_READ_LO"
  | .regReadHi _ => "REG_READ_HI"
  | .regWriteLo _ _ => "REG_WRITE_LO"
  | .regWriteHi _ _ => "REG_WRITE_HI"
  | .ptrRead _ => "PTR_READ"
  | .ptrWrite _ _ => "PTR_WRITE"
  | .flagRead _ => "FLAG_READ"
  | .flagWrite _ _ => "FLAG_WRITE"

/-- The command word that the low `nbits` bits of `w` are, the bits above them 0; none if they are no 64-bit word. -/
def tableWord? (nbits w : Nat) : Option CommandWord :=
  if w % 2 ^ nbits < 2 ^ 64 then some (BitVec.ofNat 64 (w % 2 ^ nbits)) else none

/-- The instruction the decoder reads from a word of the opcode table. Bit 0 of `w` is bit 0 of the command word: a
command reaches the block as one whole word (R80, R81), not as bytes of memory. -/
def decodeTableWord (nbits w : Nat) : Option Instr :=
  match tableWord? nbits w with
  | some word => (decode word).toOption
  | none => none

end Sys2Proof
end

