-- ==== Sys2Proof/Machine/Biu.lean ====
section
/-! DEFINITION. Segment registers, instruction pointer and prefetch queue (`45_biu_registers_queue.md`). -/

namespace Sys2Proof.Machine

/-- `SEG_READ` (R201). -/
def execSegRead (r : SegReg) (s : State) : Result := answer (s.seg.get r) s

/-- `SEG_WRITE` (R202). -/
def execSegWrite (r : SegReg) (v : Word) (s : State) : Result := done (s.setSeg r v)

/-- `IP_READ` (R203). -/
def execIpRead (s : State) : Result := answer s.ip s

/-- `IP_WRITE` (R204): the queue is not flushed (R200). -/
def execIpWrite (v : Word) (s : State) : Result := done (s.setIp v)

/-- `PQ_PUSH` (R205). -/
def execPqPush (b : Byte) (s : State) : Result :=
  if s.queueFull then raise (encode (.pqPush b)) .queueOverflow 0 s
  else
    -- append at the tail
    done (s.setQueue (s.pq ++ [b]))

/-- `PQ_POP` (R206): an empty queue answers "no value". -/
def execPqPop (s : State) : Result :=
  match s.pq with
  | [] => done s
  | b :: rest => answer b (s.setQueue rest)

end Sys2Proof.Machine
end

