-- ==== Sys2Proof/Machine/BusTransfer.lean ====
section
/-! DEFINITION. Bus latch and byte transfers (`41_bus_transfer.md`). `FCMD` of a fault is the command's own word,
written by the encoder (A8). -/

namespace Sys2Proof.Machine

/-- `BUS_LATCH` (R110). -/
def execBusLatch (addr : BusAddr) (s : State) : Result := done (s.latchAddress addr)

/-- `BUS_READ` (R111). -/
def execBusRead (s : State) : Result :=
  match transferTarget s with
  | .error (cause, addr) => raise (encode .busRead) cause addr s
  | .ok a => answer (s.mem.read a) s

/-- `BUS_WRITE` (R112). -/
def execBusWrite (v : Byte) (s : State) : Result :=
  match transferTarget s with
  | .error (cause, addr) => raise (encode (.busWrite v)) cause addr s
  | .ok a => done (s.writeByte a v)

end Sys2Proof.Machine
end

