-- ==== Sys2Proof/Machine/Flags.lean ====
section
/-! DEFINITION. The flag bank (R27, R162). The block computes no flag from any result: reading and writing one bit is
every flag computation the spec gives. -/

namespace Sys2Proof.Machine

/-- `FLAG[f]`. -/
def FlagBank.get (b : FlagBank) : Flag → Bool
  | .carry => b.carry
  | .parity => b.parity
  | .auxCarry => b.auxCarry
  | .zero => b.zero
  | .sign => b.sign
  | .overflow => b.overflow
  | .interruptEnable => b.interruptEnable
  | .direction => b.direction
  | .trap => b.trap

/-- `FLAG[f] <- x`. -/
def FlagBank.set (b : FlagBank) (f : Flag) (x : Bool) : FlagBank :=
  match f with
  | .carry => { b with carry := x }
  | .parity => { b with parity := x }
  | .auxCarry => { b with auxCarry := x }
  | .zero => { b with zero := x }
  | .sign => { b with sign := x }
  | .overflow => { b with overflow := x }
  | .interruptEnable => { b with interruptEnable := x }
  | .direction => { b with direction := x }
  | .trap => { b with trap := x }

def State.setFlag (s : State) (f : Flag) (x : Bool) : State := { s with flags := s.flags.set f x }

end Sys2Proof.Machine
end

