-- ==== Sys2Proof/Machine/FlagCommands.lean ====
section
/-! DEFINITION. The flag commands (`43_flags.md`). -/

namespace Sys2Proof.Machine

/-- `FLAG_READ` (R160). -/
def execFlagRead (f : Flag) (s : State) : Result := answer (BitVec.ofBool (s.flags.get f)) s

/-- `FLAG_WRITE` (R161). -/
def execFlagWrite (f : Flag) (x : Bool) (s : State) : Result := done (s.setFlag f x)

end Sys2Proof.Machine
end

