-- ==== Sys2Proof/Machine/RegisterFile.lean ====
section
/-! DEFINITION. General-purpose and pointer registers (`42_register_file.md`). -/

namespace Sys2Proof.Machine

/-- `REG_READ` (R131). -/
def execRegRead (r : Gpr) (s : State) : Result := answer (s.gpr.get r) s

/-- `REG_WRITE` (R132). -/
def execRegWrite (r : Gpr) (v : Word) (s : State) : Result := done (s.setGpr r v)

/-- `REG_READ_LO` (R133). -/
def execRegReadLo (r : Gpr) (s : State) : Result := answer (lowByte (s.gpr.get r)) s

/-- `REG_READ_HI` (R134). -/
def execRegReadHi (r : Gpr) (s : State) : Result := answer (highByte (s.gpr.get r)) s

/-- `REG_WRITE_LO` (R135). -/
def execRegWriteLo (r : Gpr) (b : Byte) (s : State) : Result := done (s.setGpr r (withLowByte (s.gpr.get r) b))

/-- `REG_WRITE_HI` (R136). -/
def execRegWriteHi (r : Gpr) (b : Byte) (s : State) : Result := done (s.setGpr r (withHighByte (s.gpr.get r) b))

/-- `PTR_READ` (R137). -/
def execPtrRead (p : PtrReg) (s : State) : Result := answer (s.ptr.get p) s

/-- `PTR_WRITE` (R138). -/
def execPtrWrite (p : PtrReg) (v : Word) (s : State) : Result := done (s.setPtr p v)

end Sys2Proof.Machine
end

