-- ==== Sys2Proof/Machine/Dispatch.lean ====
section
/-! DEFINITION. The rule of each command of the opcode map (`30_encoding.md` rule R83). -/

namespace Sys2Proof.Machine

def exec (i : Instr) (s : State) : Host.Outcome State Fault Refusal :=
  match i with
  -- 41_bus_transfer.md
  | .busLatch addr => Sys2Proof.Machine.execBusLatch addr s
  | .busRead => Sys2Proof.Machine.execBusRead s
  | .busWrite v => Sys2Proof.Machine.execBusWrite v s
  -- 44_address_generation.md
  | .xlatFetch o l ovr => Sys2Proof.Machine.execXlatFetch o l ovr s
  | .xlatStack o l ovr off => Sys2Proof.Machine.execXlatStack o l ovr off s
  | .xlatStrSrc o l ovr off => Sys2Proof.Machine.execXlatStrSrc o l ovr off s
  | .xlatStrDst o l ovr off => Sys2Proof.Machine.execXlatStrDst o l ovr off s
  | .xlatData o l ovr off => Sys2Proof.Machine.execXlatData o l ovr off s
  | .xlatBpData o l ovr off => Sys2Proof.Machine.execXlatBpData o l ovr off s
  -- 45_biu_registers_queue.md
  | .segRead r => Sys2Proof.Machine.execSegRead r s
  | .segWrite r v => Sys2Proof.Machine.execSegWrite r v s
  | .ipRead => Sys2Proof.Machine.execIpRead s
  | .ipWrite v => Sys2Proof.Machine.execIpWrite v s
  | .pqPush b => Sys2Proof.Machine.execPqPush b s
  | .pqPop => Sys2Proof.Machine.execPqPop s
  -- 42_register_file.md
  | .regRead r => Sys2Proof.Machine.execRegRead r s
  | .regWrite r v => Sys2Proof.Machine.execRegWrite r v s
  | .regReadLo r => Sys2Proof.Machine.execRegReadLo r s
  | .regReadHi r => Sys2Proof.Machine.execRegReadHi r s
  | .regWriteLo r b => Sys2Proof.Machine.execRegWriteLo r b s
  | .regWriteHi r b => Sys2Proof.Machine.execRegWriteHi r b s
  | .ptrRead p => Sys2Proof.Machine.execPtrRead p s
  | .ptrWrite p v => Sys2Proof.Machine.execPtrWrite p v s
  -- 43_flags.md
  | .flagRead f => Sys2Proof.Machine.execFlagRead f s
  | .flagWrite f x => Sys2Proof.Machine.execFlagWrite f x s

end Sys2Proof.Machine
end

