-- ==== Sys2Proof/Machine/Command.lean ====
section
/-! DEFINITION. One command word (`30_encoding.md` rule R80), and what the caller sends. -/

namespace Sys2Proof.Machine

/-- R80: refused while faulted, then the legality of the word, then the command's rule. The refusal comes first, so a
faulted block does not even look at the word (R237). -/
def runCommand (w : CommandWord) (s : State) : Result :=
  if s.faulted then .next s.refuse
  else match decode w with
    | .error _ => raise w .illegalCommand 0 s
    | .ok i => exec i s

/-- One input: a command, or a reset between commands (R260). -/
def serve (x : Input) (s : State) : Result :=
  match x with
  | .command w => runCommand w s
  | .reset d => .next (s.takeReset d)

/-- The caller sends inputs after those it has sent already; they are served in that order (R51). -/
def State.send (s : State) (xs : List Input) : State := s.setInput (s.input ++ xs)

/-- The caller sends commands, each by its word. -/
def commands (is : List Instr) : List Input := is.map fun i => .command (encode i)

/-- The caller's next input is the word `w`, before any it has sent already (A11). -/
def State.withNextCommand (s : State) (w : CommandWord) : State :=
  s.setInput (.command w :: s.input)

end Sys2Proof.Machine
end

