-- ==== Sys2Proof/Machine/Step.lean ====
section
/-! DEFINITION. One step of the block: it serves the oldest input, or does nothing where there is none. -/

namespace Sys2Proof.Machine

/-- R9, R80, R260: one input per step. With nothing sent the block does nothing (R261; A2). -/
def step (s : State) : Host.Outcome State Fault Refusal :=
  match s.input with
  | [] => .next s
  | x :: rest => serve x (s.setInput rest)

/-- The state whose next step runs the command that the low `nbits` bits of `w` are. A command is not fetched from
memory: the caller sends it, so the word goes to the front of the inputs (A11). -/
def State.withFetchWord (s : State) (nbits w : Nat) : State :=
  match tableWord? nbits w with
  | some word => s.withNextCommand word
  | none => s

end Sys2Proof.Machine
end

