-- ==== Sys2Proof/Machine/Assembler.lean ====
section
/-! DEFINITION. The textual syntax (`30_encoding.md` rule R92), its range check (R93) and the pseudo-commands (R94).
None of it is part of the block: it is how the spec spells what a caller sends. -/

namespace Sys2Proof.Machine

/-! ### A line of text, cut into its parts -/

/-- One operand: a number, an upper-case name, `ovr=seg16` or `latch` (R92). -/
inductive AsmOperand where
  | number (n : Nat)
  | name (s : String)
  | override (n : Nat)
  | latch
  deriving DecidableEq, Repr

/-- A mnemonic, the operand that follows it after a space, and the operands that follow a comma (R92). -/
structure AsmLine where
  mnemonic : String
  first : Option AsmOperand := none
  more : List AsmOperand := []
  deriving DecidableEq, Repr

/-! ### Lexing (A14) -/

/-- The digits of R92's two bases in the order of their values. -/
def digitRow : List Char := ['0', '1', '2', '3', '4', '5', '6', '7', '8', '9', 'a', 'b', 'c', 'd', 'e', 'f']

/-- The value of a digit is its place in the row; a letter counts in either case. -/
def digitOf? (c : Char) : Option Nat := digitRow.idxOf? c.toLower

/-- The digits of a number in `base`, most significant first, after the value `acc` of those already read. -/
def readDigits? (base : Nat) : Nat → List Char → Option Nat
  | acc, [] => some acc
  | acc, c :: cs =>
    match digitOf? c with
    | some d => if d < base then readDigits? base (acc * base + d) cs else none
    | none => none

/-- R92: "Numbers are hexadecimal with `0x` or decimal". -/
def readNumber? (cs : List Char) : Option Nat :=
  match cs with
  | [] => none
  | ['0', 'x'] => none
  | '0' :: 'x' :: ds => readDigits? 16 0 ds
  | c :: ds => readDigits? 10 0 (c :: ds)

def readOperand? (cs : List Char) : Option AsmOperand :=
  match cs with
  | 'o' :: 'v' :: 'r' :: '=' :: ds => (readNumber? ds).map .override
  | ['l', 'a', 't', 'c', 'h'] => some .latch
  | [] => none
  | c :: ds =>
    if c.isDigit then (readNumber? (c :: ds)).map .number
    else if (c :: ds).all Char.isUpper then some (.name (String.ofList (c :: ds)))
    else none

/-- The characters between separators, empty stretches included. -/
def splitOn (sep : Char) : List Char → List (List Char)
  | [] => [[]]
  | c :: cs =>
    if c = sep then [] :: splitOn sep cs
    else match splitOn sep cs with
      | [] => [[c]]
      | p :: ps => (c :: p) :: ps

/-- The words of a stretch of text. -/
def wordsOf (cs : List Char) : List (List Char) := (splitOn ' ' cs).filter fun p => !p.isEmpty

def readOperands? : List (List Char) → Option (List AsmOperand)
  | [] => some []
  | p :: ps =>
    match wordsOf p with
    | [x] => (readOperand? x).bind fun o => (readOperands? ps).map fun os => o :: os
    | _ => none

def readLine? (cs : List Char) : Option AsmLine :=
  match splitOn ',' cs with
  | [] => none
  | head :: tail =>
    match wordsOf head with
    | [m] => (readOperands? tail).map fun os => { mnemonic := String.ofList m, more := os }
    | [m, x] =>
      (readOperand? x).bind fun o =>
        (readOperands? tail).map fun os => { mnemonic := String.ofList m, first := some o, more := os }
    | _ => none

/-! ### From operands to commands -/

/-- R93: a value that does not fit its field is rejected, never truncated. -/
def fit? (width n : Nat) : Option (BitVec width) :=
  if n < 2 ^ width then some (BitVec.ofNat width n) else none

def bit? (n : Nat) : Option Bool := (fit? 1 n).map fun b => b.getLsbD 0

def SegReg.ofName? : String → Option SegReg
  | "ES" => some .es
  | "CS" => some .cs
  | "SS" => some .ss
  | "DS" => some .ds
  | _ => none

def Gpr.ofName? : String → Option Gpr
  | "AX" => some .ax
  | "BX" => some .bx
  | "CX" => some .cx
  | "DX" => some .dx
  | _ => none

/-- The operand of the `_LO` commands: the register, or its alias by the byte's name (R92). -/
def Gpr.ofLowName? : String → Option Gpr
  | "AL" => some .ax
  | "BL" => some .bx
  | "CL" => some .cx
  | "DL" => some .dx
  | s => Gpr.ofName? s

/-- The operand of the `_HI` commands: the register, or its alias by the byte's name (R92). -/
def Gpr.ofHighName? : String → Option Gpr
  | "AH" => some .ax
  | "BH" => some .bx
  | "CH" => some .cx
  | "DH" => some .dx
  | s => Gpr.ofName? s

def PtrReg.ofName? : String → Option PtrReg
  | "SP" => some .sp
  | "BP" => some .bp
  | "SI" => some .si
  | "DI" => some .di
  | _ => none

def Flag.ofName? : String → Option Flag
  | "CF" => some .carry
  | "PF" => some .parity
  | "AF" => some .auxCarry
  | "ZF" => some .zero
  | "SF" => some .sign
  | "OF" => some .overflow
  | "IF" => some .interruptEnable
  | "DF" => some .direction
  | "TF" => some .trap
  | _ => none

def AddrMode.ofName? : String → Option AddrMode
  | "FETCH" => some .fetch
  | "STACK" => some .stack
  | "STRSRC" => some .strSrc
  | "STRDST" => some .strDst
  | "DATA" => some .data
  | "BPDATA" => some .bpData
  | _ => none

/-- `[, ovr=seg16] [, latch]`: `O`, `ovr` and `L` (R92). -/
def xlatOptions? : List AsmOperand → Option (Bool × Word × Bool)
  | [] => some (false, 0, false)
  | [.latch] => some (false, 0, true)
  | [.override n] => (fit? 16 n).map fun seg => (true, seg, false)
  | [.override n, .latch] => (fit? 16 n).map fun seg => (true, seg, true)
  | _ => none

/-- `off16 [, ovr=seg16] [, latch]`. -/
def xlatWithOffset? (mode : AddrMode) (n : Nat) (opts : List AsmOperand) : Option Instr :=
  (fit? 16 n).bind fun off => (xlatOptions? opts).map fun (o, ovr, l) => .xlat mode o l ovr off

/-- One line of R92's table; `none` where no row has this form or a value does not fit (R93). -/
def AsmLine.assemble? (line : AsmLine) : Option Instr :=
  match line.mnemonic, line.first, line.more with
  | "BUS_LATCH", some (.number n), [] => (fit? 32 n).map .busLatch
  | "BUS_READ", none, [] => some .busRead
  | "BUS_WRITE", some (.number n), [] => (fit? 8 n).map .busWrite
  | "XLAT_FETCH", none, opts => (xlatOptions? opts).map fun (o, ovr, l) => .xlatFetch o l ovr
  | "XLAT_STACK", some (.number n), opts => xlatWithOffset? .stack n opts
  | "XLAT_STRSRC", some (.number n), opts => xlatWithOffset? .strSrc n opts
  | "XLAT_STRDST", some (.number n), opts => xlatWithOffset? .strDst n opts
  | "XLAT_DATA", some (.number n), opts => xlatWithOffset? .data n opts
  | "XLAT_BPDATA", some (.number n), opts => xlatWithOffset? .bpData n opts
  | "SEG_READ", some (.name r), [] => (SegReg.ofName? r).map .segRead
  | "SEG_WRITE", some (.name r), [.number n] =>
    (SegReg.ofName? r).bind fun r => (fit? 16 n).map fun v => .segWrite r v
  | "IP_READ", none, [] => some .ipRead
  | "IP_WRITE", some (.number n), [] => (fit? 16 n).map .ipWrite
  | "PQ_PUSH", some (.number n), [] => (fit? 8 n).map .pqPush
  | "PQ_POP", none, [] => some .pqPop
  | "REG_READ", some (.name r), [] => (Gpr.ofName? r).map .regRead
  | "REG_WRITE", some (.name r), [.number n] =>
    (Gpr.ofName? r).bind fun r => (fit? 16 n).map fun v => .regWrite r v
  | "REG_READ_LO", some (.name r), [] => (Gpr.ofLowName? r).map .regReadLo
  | "REG_READ_HI", some (.name r), [] => (Gpr.ofHighName? r).map .regReadHi
  | "REG_WRITE_LO", some (.name r), [.number n] =>
    (Gpr.ofLowName? r).bind fun r => (fit? 8 n).map fun b => .regWriteLo r b
  | "REG_WRITE_HI", some (.name r), [.number n] =>
    (Gpr.ofHighName? r).bind fun r => (fit? 8 n).map fun b => .regWriteHi r b
  | "PTR_READ", some (.name p), [] => (PtrReg.ofName? p).map .ptrRead
  | "PTR_WRITE", some (.name p), [.number n] =>
    (PtrReg.ofName? p).bind fun p => (fit? 16 n).map fun v => .ptrWrite p v
  | "FLAG_READ", some (.name f), [] => (Flag.ofName? f).map .flagRead
  | "FLAG_WRITE", some (.name f), [.number n] =>
    (Flag.ofName? f).bind fun f => (bit? n).map fun x => .flagWrite f x
  | _, _, _ => none

/-! ### Pseudo-commands (R94) -/

/-- A pseudo-command of R94 but DRAINPQ, whose length depends on the responses (`drainPq`). `ovr` is the segment of an
`ovr=`. In the fetch mode no `off` is written and `off` is not used (A15). -/
inductive Pseudo where
  | ldb (mode : AddrMode) (off : Word) (ovr : Option Word)
  | stb (mode : AddrMode) (off : Word) (b : Byte) (ovr : Option Word)
  | ldw (mode : AddrMode) (off : Word) (ovr : Option Word)
  | stw (mode : AddrMode) (off : Word) (w : Word) (ovr : Option Word)
  deriving DecidableEq, Repr

/-- `XLAT_<mode> off [, ovr=s], latch`. -/
def latchingXlat (mode : AddrMode) (off : Word) (ovr : Option Word) : Instr :=
  .xlat mode ovr.isSome true (ovr.getD 0) off

def expandLdb (mode : AddrMode) (off : Word) (ovr : Option Word) : List Instr :=
  [latchingXlat mode off ovr, .busRead]

def expandStb (mode : AddrMode) (off : Word) (b : Byte) (ovr : Option Word) : List Instr :=
  [latchingXlat mode off ovr, .busWrite b]

/-- The expansion column of R94. The second byte's offset is `(off+1) & 0xFFFF`, in the same segment (D25); the low
byte comes first (R54). -/
def Pseudo.expand : Pseudo → List Instr
  | .ldb mode off ovr => expandLdb mode off ovr
  | .stb mode off b ovr => expandStb mode off b ovr
  | .ldw mode off ovr => expandLdb mode off ovr ++ expandLdb mode (off + 1) ovr
  | .stw mode off w ovr => expandStb mode off (lowByte w) ovr ++ expandStb mode (off + 1) (highByte w) ovr

/-- DRAINPQ: `PQ_POP`, "repeated until a response has `rvalid = 0`" (R94). With `n` bytes queued and no fault that is
one pop for each and one more (A16). -/
def drainPq (n : Nat) : List Instr := List.replicate (n + 1) .pqPop

def overrideOption? : List AsmOperand → Option (Option Word)
  | [] => some none
  | [.override n] => (fit? 16 n).map some
  | _ => none

/-- A line of R94's table, with the operand forms of its first column. -/
def AsmLine.pseudo? (line : AsmLine) : Option Pseudo :=
  match line.mnemonic, line.first, line.more with
  | "LDB", some (.name "FETCH"), opts => (overrideOption? opts).map fun ovr => .ldb .fetch 0 ovr
  | "LDB", some (.name m), .number n :: opts =>
    (AddrMode.ofName? m).bind fun mode => (fit? 16 n).bind fun off =>
      (overrideOption? opts).map fun ovr => .ldb mode off ovr
  | "STB", some (.name m), .number n :: .number b :: opts =>
    (AddrMode.ofName? m).bind fun mode => (fit? 16 n).bind fun off => (fit? 8 b).bind fun b =>
      (overrideOption? opts).map fun ovr => .stb mode off b ovr
  | "LDW", some (.name m), .number n :: opts =>
    (AddrMode.ofName? m).bind fun mode => (fit? 16 n).bind fun off =>
      (overrideOption? opts).map fun ovr => .ldw mode off ovr
  | "STW", some (.name m), .number n :: .number w :: opts =>
    (AddrMode.ofName? m).bind fun mode => (fit? 16 n).bind fun off => (fit? 16 w).bind fun w =>
      (overrideOption? opts).map fun ovr => .stw mode off w ovr
  | _, _, _ => none

/-- The commands a line of text stands for: one command (R92) or the expansion of a pseudo-command (R94). -/
def assembleText? (text : String) : Option (List Instr) :=
  (readLine? text.toList).bind fun line =>
    match line.assemble? with
    | some i => some [i]
    | none => line.pseudo?.map Pseudo.expand

end Sys2Proof.Machine
end

