-- ==== Sys2Proof/Safety.lean ====
section
/-! DEFINITION. What a safe run is, in the terms the statements use: which command a step runs, which fault a command
must take, what a state that explains itself looks like. -/

namespace Sys2Proof

/-- The commands that move a byte at the latched address (R230: the ones that causes 2 and 3 can meet). -/
def Instr.isTransfer : Instr → Bool
  | .busRead | .busWrite _ => true
  | _ => false

/-- The width of the result a command returns, where it returns one (R84, R86): a byte, a 16-bit value, a physical
address or a bit. -/
def Instr.resultWidth? : Instr → Option Nat
  | .busRead | .pqPop | .regReadLo _ | .regReadHi _ => some 8
  | .segRead _ | .ipRead | .regRead _ | .ptrRead _ => some 16
  | .xlatFetch _ _ _ | .xlatStack _ _ _ _ | .xlatStrSrc _ _ _ _ | .xlatStrDst _ _ _ _ | .xlatData _ _ _ _
  | .xlatBpData _ _ _ _ => some 21
  | .flagRead _ => some 1
  | _ => none

namespace Machine

/-- The next step runs `i`: the block has not faulted, and the oldest input is a command word that means `i` (R80). -/
def State.runs (s : State) (i : Instr) : Prop :=
  s.faulted = false ∧ ∃ w rest, s.input = .command w :: rest ∧ decode w = .ok i

/-- The next step is a reset with the draw `d` (R260). -/
def State.resets (s : State) (d : ResetDraw) : Prop := ∃ rest, s.input = .reset d :: rest

/-- A safe state: no fault has been taken since reset. The block runs commands in these states and no others (R236). -/
def State.safe (s : State) : Prop := s.faulted = false

/-- The fault a block that has not faulted must take on the word `w`, with its `FADDR`: the conditions of R230 in the
order of R237, read off the raw fields. -/
def expectedFault (w : CommandWord) (s : State) : Option (FaultCause × BusAddr) :=
  let f := Fields.ofWord w
  let transfer := f.opc == 0x02 || f.opc == 0x03
  if f.legal = false then some (.illegalCommand, 0)
  else if transfer && !s.latchValid then some (.noAddressLatched, 0)
  else if transfer && decide (addressSpaceSize ≤ s.latch.toNat) then some (.outOfRange, s.latch)
  else if f.opc == 0x14 && s.queueFull then some (.queueOverflow, 0)
  else none

/-- The fault status says what happened: nothing before a fault (R32), and after one the cause, the command and the
address agree with the state the fault left (R230 to R235). -/
def State.faultExplained (s : State) : Prop :=
  match s.faulted, s.fcause with
  | false, cause => cause = .noFault ∧ s.fcmd = 0 ∧ s.faddr = 0
  | true, .noFault => False
  | true, .illegalCommand => s.faddr = 0 ∧ (Fields.ofWord s.fcmd).legal = false
  | true, .noAddressLatched => s.faddr = 0 ∧ s.latchValid = false ∧ ∃ i, decode s.fcmd = .ok i ∧ i.isTransfer = true
  | true, .outOfRange =>
    s.faddr = s.latch ∧ s.latchValid = true ∧ addressSpaceSize ≤ s.latch.toNat
      ∧ ∃ i, decode s.fcmd = .ok i ∧ i.isTransfer = true
  | true, .queueOverflow => s.faddr = 0 ∧ s.queueFull = true ∧ ∃ b, decode s.fcmd = .ok (.pqPush b)

/-- The response of a command that only writes (R84). -/
def Response.written : Response := { st := .ok, rdata := 0, rvalid := false }

/-- The response of a command that returns `v` (R84, R86). -/
def Response.value {n : Nat} (v : BitVec n) : Response := { st := .ok, rdata := v.setWidth 32, rvalid := true }

/-- The response of a command that faulted (R84, R233). -/
def Response.faulting : Response := { st := .fault, rdata := 0, rvalid := false }

/-- The response of a command a faulted block refuses (R84, R236). -/
def Response.refusing : Response := { st := .refused, rdata := 0, rvalid := false }

/-- The state after a translation whose address is `pa` and whose latch bit is `l`: nothing else has changed (R172). -/
def State.translated (s : State) (l : Bool) (pa : PhysAddr) : State :=
  { s with
    latch := if l then pa.setWidth 32 else s.latch
    latchValid := if l then true else s.latchValid
    response := some (.value pa) }

/-- R84: no result, no data; only `OK` carries a result. -/
def Response.wf (r : Response) : Prop := (r.rvalid = false → r.rdata = 0) ∧ (r.st ≠ .ok → r.rvalid = false)

/-- The invariant of the block. -/
structure State.Inv (s : State) : Prop where
  /-- Memory is in its canonical form: the addresses are below `addressSpaceSize` (R30). -/
  memory : s.mem.wf = true
  /-- `PQ_CAP` is at least 1 (R5). -/
  params : s.params.wf = true
  /-- The queue is within its capacity (R20, R28). -/
  queue : s.params.pqCap.holds s.pq.length = true
  /-- The fault status explains itself (R32). -/
  fault : s.faultExplained
  /-- The last response is well-formed (R84). -/
  response : ∀ r, s.response = some r → r.wf
  /-- A response other than `OK` is given exactly while faulted (R233, R236). -/
  status : s.faulted = true ↔ ∃ r, s.response = some r ∧ r.st ≠ .ok

end Machine

end Sys2Proof
end

