-- ==== Sys2Proof/Certificates/Slice0/Obligations.lean ====
section
/-! DEFINITION. The statements about the block. A statement about a next state gives the next state; `{ s with … }` names
every field that changes, so it is the statement's frame as well. -/

open Sys2Proof Sys2Proof.Machine

/-! ### Encoding -/

/-- Words of `30_encoding.md` and the family files, one of each family, mean the commands the spec gives them. -/
def Obligations.SpecWordsDecode : Prop :=
  decode 0x04000000000155A5 = .ok (.busLatch 0x155A5) ∧
  decode 0x2820100000000400 = .ok (.xlatStrSrc true false 0x1000 0x0400) ∧
  decode 0x44C0000000003000 = .ok (.segWrite .ds 0x3000) ∧
  decode 0x5000000000000011 = .ok (.pqPush 0x11) ∧
  decode 0x70C00000000000FF = .ok (.regWriteLo .dx 0xFF) ∧
  decode 0x7C80000000000400 = .ok (.ptrWrite .si 0x0400) ∧
  decode 0x8600000000000001 = .ok (.flagWrite .trap true) ∧
  decode 0x0000000000000000 = .error .unassignedOpcode

/-- The codes of R22, R24, R26, R27 (selectors), R230 (fault causes) and R84 (status). -/
def Obligations.CodesAreTheSpecs : Prop :=
  [SegReg.es, .cs, .ss, .ds].map SegReg.code = [0, 1, 2, 3] ∧
  [Gpr.ax, .bx, .cx, .dx].map Gpr.code = [0, 1, 2, 3] ∧
  [PtrReg.sp, .bp, .si, .di].map PtrReg.code = [0, 1, 2, 3] ∧
  [Flag.carry, .parity, .auxCarry, .zero, .sign, .overflow, .interruptEnable, .direction, .trap].map Flag.code
    = [0, 1, 2, 3, 4, 5, 6, 7, 8] ∧
  [FaultCause.noFault, .illegalCommand, .noAddressLatched, .outOfRange, .queueOverflow].map FaultCause.code
    = [0, 1, 2, 3, 4] ∧
  [Status.ok, .fault, .refused].map Status.code = [0, 1, 2]

/-- Decoding an encoded command gives it back, every operand at every value: no operand bit is dropped (R81 to R89). -/
def Obligations.DecodeEncode : Prop :=
  ∀ i : Instr, decode (encode i) = .ok i

/-- A legal word is the encoding of the command it means: no two words mean one command, and the word that a fault
records is the word that was sent. -/
def Obligations.EncodeDecode : Prop :=
  ∀ (w : CommandWord) (i : Instr), decode w = .ok i → encode i = w

/-- R234, R85: the decoder accepts exactly the words the table of field rules calls legal, and any other word, given to a
block that has not faulted, faults with ILLEGAL_COMMAND before any effect. -/
def Obligations.LegalWordsExactly : Prop :=
  (∀ w : CommandWord, (∃ i, decode w = .ok i) ↔ (Fields.ofWord w).legal = true) ∧
  ∀ (w : CommandWord) (s : State), s.faulted = false → (Fields.ofWord w).legal = false →
    runCommand w s = .next (s.takeFault w .illegalCommand 0)

/-- Each row of spec/opcode_table.json, by its match, mask and range of `sel`, covers exactly the words that decode to
the command of its mnemonic. -/
def Obligations.OpcodeTableRows : Prop :=
  ∀ (w : CommandWord), ∀ row ∈ opcodeTable,
    row.covers w = true ↔ ∃ i, decode w = .ok i ∧ i.mnemonic = row.mnemonic

/-! ### Bus latch and byte transfers -/

/-- R110: BUS_LATCH latches any 32-bit address, with no check, and changes nothing else. -/
def Obligations.BusLatchLatchesAnyAddress : Prop :=
  ∀ (addr : BusAddr) (s : State),
    encode (.busLatch addr) = 0x0400000000000000 ||| addr.setWidth 64 ∧
    exec (.busLatch addr) s = .next { s with latch := addr, latchValid := true, response := some .written }

/-- R111: BUS_READ answers the byte at the latched address and changes nothing else; it faults with no address latched,
and else with an address of 0x100000 or more. -/
def Obligations.BusReadAnswersLatchedByte : Prop :=
  encode .busRead = 0x0800000000000000 ∧
  ∀ s : State,
    (s.latchValid = false →
      exec .busRead s = .next (s.takeFault 0x0800000000000000 .noAddressLatched 0)) ∧
    (s.latchValid = true → 0x100000 ≤ s.latch.toNat →
      exec .busRead s = .next (s.takeFault 0x0800000000000000 .outOfRange s.latch)) ∧
    (s.latchValid = true → s.latch.toNat < 0x100000 →
      exec .busRead s = .next { s with response := some (.value (s.mem.read s.latch.toNat)) })

/-- R112: BUS_WRITE writes its byte at the latched address; every other byte and every other field is unchanged. It
faults as BUS_READ does, and then writes no byte. The written byte is read back from any memory in the canonical form
(which every step keeps: `Obligations.StepKeepsInvariant`). -/
def Obligations.BusWriteWritesLatchedByte : Prop :=
  ∀ (v : Byte) (s : State),
    encode (.busWrite v) = 0x0C00000000000000 ||| v.setWidth 64 ∧
    (s.latchValid = false →
      exec (.busWrite v) s = .next (s.takeFault (0x0C00000000000000 ||| v.setWidth 64) .noAddressLatched 0)) ∧
    (s.latchValid = true → 0x100000 ≤ s.latch.toNat →
      exec (.busWrite v) s = .next (s.takeFault (0x0C00000000000000 ||| v.setWidth 64) .outOfRange s.latch)) ∧
    (s.latchValid = true → s.latch.toNat < 0x100000 →
      ∃ t, exec (.busWrite v) s = .next t ∧ (s.mem.wf = true → t.mem.read s.latch.toNat = v) ∧
        (∀ a, a ≠ s.latch.toNat → t.mem.read a = s.mem.read a) ∧
        t = { s with mem := t.mem, response := some .written })

/-- Two memories in the canonical form that read alike at every address are equal: State holds no memory twice. The
form is the model's own (A10). -/
def Obligations.MemoryFormIsCanonical : Prop :=
  ∀ m m' : Memory, m.wf = true → m'.wf = true → (∀ a, m.read a = m'.read a) → m = m'

/-- The source's testable property E9: latch `a`, write `v`, read: the answer is `v`, and every other byte is
unchanged, as is everything else but the latch. -/
def Obligations.LatchWriteReadRoundTrip : Prop :=
  ∀ (s : State) (a : BusAddr) (v : Byte) (rest : List Input),
    s.faulted = false → s.mem.wf = true → a.toNat < addressSpaceSize →
    s.input = commands [.busLatch a, .busWrite v, .busRead] ++ rest →
    ∃ t, Host.Core.run Sys2Proof.core 3 s = .next t ∧ t.response = some (.value v) ∧ t.mem.read a.toNat = v ∧
      (∀ a', a' ≠ a.toNat → t.mem.read a' = s.mem.read a') ∧
      t = { s with mem := t.mem, latch := a, latchValid := true, input := rest, response := t.response }

/-! ### Address generation -/

/-- R170: sixteen times the segment plus the offset, never reduced; at most 0x10FFEF. -/
def Obligations.PhysicalAddressFormula : Prop :=
  ∀ seg off : Word,
    physicalAddress seg off = (seg.setWidth 21 <<< 4) + off.setWidth 21 ∧
    (physicalAddress seg off).toNat = seg.toNat * 16 + off.toNat ∧
    (physicalAddress seg off).toNat ≤ 0x10FFEF

/-- R180: the range of an address, when it is in range, which pairs alias, and the low nibble. -/
def Obligations.TranslationLaws : Prop :=
  ∀ seg off : Word,
    (physicalAddress seg off).toNat ≤ 0x10FFEF ∧
    ((physicalAddress seg off).toNat < 0x100000 ↔ seg.toNat * 16 + off.toNat < 0x100000) ∧
    (seg.toNat ≤ 0xF000 → (physicalAddress seg off).toNat < 0x100000) ∧
    (0xF001 ≤ seg.toNat → 0x100000 - seg.toNat * 16 ≤ off.toNat → 0x100000 ≤ (physicalAddress seg off).toNat) ∧
    (∀ seg' off' : Word, ∀ k : Nat, seg'.toNat + k = seg.toNat → off'.toNat = off.toNat + 16 * k →
      physicalAddress seg' off' = physicalAddress seg off) ∧
    (physicalAddress seg off).extractLsb' 0 4 = off.extractLsb' 0 4

/-- R173, R174, R176: the three modes without an override use their default segment whatever `O` and `ovr` are. They
answer the address, latch it exactly when `L = 1`, and change nothing else. -/
def Obligations.FixedSegmentTranslations : Prop :=
  ∀ (o l : Bool) (ovr off : Word) (s : State),
    let options : CommandWord :=
      ((BitVec.ofBool o).setWidth 64 <<< 53) ||| ((BitVec.ofBool l).setWidth 64 <<< 52) ||| (ovr.setWidth 64 <<< 32)
    encode (.xlatFetch o l ovr) = 0x2000000000000000 ||| options ∧
    encode (.xlatStack o l ovr off) = 0x2400000000000000 ||| options ||| off.setWidth 64 ∧
    encode (.xlatStrDst o l ovr off) = 0x2C00000000000000 ||| options ||| off.setWidth 64 ∧
    exec (.xlatFetch o l ovr) s = .next (s.translated l ((s.seg.cs.setWidth 21 <<< 4) + s.ip.setWidth 21)) ∧
    exec (.xlatStack o l ovr off) s = .next (s.translated l ((s.seg.ss.setWidth 21 <<< 4) + off.setWidth 21)) ∧
    exec (.xlatStrDst o l ovr off) s = .next (s.translated l ((s.seg.es.setWidth 21 <<< 4) + off.setWidth 21))

/-- R175, R177, R178: the three modes with an override use `ovr` when `O = 1` and their default segment otherwise. -/
def Obligations.OverridableTranslations : Prop :=
  ∀ (o l : Bool) (ovr off : Word) (s : State),
    let options : CommandWord :=
      ((BitVec.ofBool o).setWidth 64 <<< 53) ||| ((BitVec.ofBool l).setWidth 64 <<< 52) ||| (ovr.setWidth 64 <<< 32)
    encode (.xlatStrSrc o l ovr off) = 0x2800000000000000 ||| options ||| off.setWidth 64 ∧
    encode (.xlatData o l ovr off) = 0x3000000000000000 ||| options ||| off.setWidth 64 ∧
    encode (.xlatBpData o l ovr off) = 0x3400000000000000 ||| options ||| off.setWidth 64 ∧
    exec (.xlatStrSrc o l ovr off) s =
      .next (s.translated l (((if o then ovr else s.seg.ds).setWidth 21 <<< 4) + off.setWidth 21)) ∧
    exec (.xlatData o l ovr off) s =
      .next (s.translated l (((if o then ovr else s.seg.ds).setWidth 21 <<< 4) + off.setWidth 21)) ∧
    exec (.xlatBpData o l ovr off) s =
      .next (s.translated l (((if o then ovr else s.seg.ss).setWidth 21 <<< 4) + off.setWidth 21))

/-- R179: an override replaces the default segment, which is not used in any way; no segment register changes, and the
next translation without `O = 1` uses the default again. -/
def Obligations.OverrideIsNotStored : Prop :=
  ∀ (mode mode' : AddrMode) (l l' : Bool) (ovr ovr' off off' : Word) (s : State),
    mode = .strSrc ∨ mode = .data ∨ mode = .bpData →
    mode' = .strSrc ∨ mode' = .data ∨ mode' = .bpData →
    ∃ t, exec (.xlat mode true l ovr off) s = .next t ∧ t = s.translated l (physicalAddress ovr off) ∧ t.seg = s.seg ∧
      exec (.xlat mode' false l' ovr' off') t =
        .next (t.translated l' (physicalAddress (s.seg.get (defaultSeg mode')) off'))

/-- D11: a translation with `L = 1` ends as the same translation with `L = 0` followed by BUS_LATCH of its answer does,
but for the last response, which is the translation's. -/
def Obligations.LatchBitIsTranslationThenLatch : Prop :=
  ∀ (mode : AddrMode) (o : Bool) (ovr off : Word) (s : State),
    ∃ t r u, exec (.xlat mode o false ovr off) s = .next t ∧ t.response = some r ∧
      exec (.busLatch r.rdata) t = .next u ∧
      exec (.xlat mode o true ovr off) s = .next { u with response := some r }

/-- R172, R26: what a translation answers and latches depends on the segment registers, `IP` and its own fields only;
no general-purpose or pointer register, flag, queue or memory byte reaches it. -/
def Obligations.TranslationReadsOnlySegmentsAndIp : Prop :=
  ∀ (mode : AddrMode) (o l : Bool) (ovr off : Word) (s s' : State), s.seg = s'.seg → s.ip = s'.ip →
    ∃ t t', exec (.xlat mode o l ovr off) s = .next t ∧ exec (.xlat mode o l ovr off) s' = .next t' ∧
      t.response = t'.response ∧ (l = true → t.latch = t'.latch ∧ t.latchValid = t'.latchValid)

/-! ### Segment registers, instruction pointer, queue -/

/-- R201, R202: SEG_READ answers the segment register; SEG_WRITE writes it, no other register or field changes, and the
next translation uses the new value. -/
def Obligations.SegmentRegisterCommands : Prop :=
  ∀ (r : SegReg) (v : Word) (s : State),
    encode (.segRead r) = 0x4000000000000000 ||| (r.code.setWidth 64 <<< 54) ∧
    encode (.segWrite r v) = 0x4400000000000000 ||| (r.code.setWidth 64 <<< 54) ||| v.setWidth 64 ∧
    exec (.segRead r) s = .next { s with response := some (.value (s.seg.get r)) } ∧
    ∃ t, exec (.segWrite r v) s = .next t ∧ t.seg.get r = v ∧ (∀ r', r' ≠ r → t.seg.get r' = s.seg.get r') ∧
      t = { s with seg := t.seg, response := some .written } ∧
      ∀ mode l ovr off, defaultSeg mode = r →
        exec (.xlat mode false l ovr off) t = .next (t.translated l (physicalAddress v (offsetSel mode off t)))

/-- R203, R204: IP_READ answers `IP`; IP_WRITE writes it and nothing else (the queue is not flushed). -/
def Obligations.InstructionPointerCommands : Prop :=
  ∀ (v : Word) (s : State),
    encode .ipRead = 0x4800000000000000 ∧
    encode (.ipWrite v) = 0x4C00000000000000 ||| v.setWidth 64 ∧
    exec .ipRead s = .next { s with response := some (.value s.ip) } ∧
    exec (.ipWrite v) s = .next { s with ip := v, response := some .written }

/-- R205: PQ_PUSH appends its byte at the tail of a queue with room, and faults on a full bounded queue, which stays as
it was. -/
def Obligations.PushAppendsAtTail : Prop :=
  ∀ (b : Byte) (s : State),
    encode (.pqPush b) = 0x5000000000000000 ||| b.setWidth 64 ∧
    (∀ n, s.params.pqCap = .bounded n → s.pq.length = n →
      exec (.pqPush b) s = .next (s.takeFault (0x5000000000000000 ||| b.setWidth 64) .queueOverflow 0)) ∧
    (s.params.pqCap = .unbounded ∨ (∃ n, s.params.pqCap = .bounded n ∧ s.pq.length ≠ n) →
      exec (.pqPush b) s = .next { s with pq := s.pq ++ [b], response := some .written })

/-- R206: PQ_POP takes the oldest byte and answers it; on an empty queue it answers "no value" and changes nothing. -/
def Obligations.PopTakesOldest : Prop :=
  encode .pqPop = 0x5400000000000000 ∧
  ∀ s : State,
    (s.pq = [] → exec .pqPop s = .next { s with response := some .written }) ∧
    (∀ b q, s.pq = b :: q → exec .pqPop s = .next { s with pq := q, response := some (.value b) })

/-- R207: bytes pushed into an empty queue that has room for them come out in the order they went in: after `k + 1` pops
the answer is the byte pushed at place `k`, and the later bytes are still queued in order. -/
def Obligations.QueueIsFirstInFirstOut : Prop :=
  ∀ (s : State) (bs : List Byte) (k : Nat) (hk : k < bs.length) (rest : List Input),
    s.faulted = false → s.pq = [] → s.params.pqCap.holds bs.length = true →
    s.input = commands (bs.map .pqPush ++ List.replicate (k + 1) .pqPop) ++ rest →
    Host.Core.run Sys2Proof.core (bs.length + (k + 1)) s =
      .next { s with pq := bs.drop (k + 1), input := rest, response := some (.value bs[k]) }

/-! ### Register file -/

/-- R131, R133, R134: REG_READ answers the register, REG_READ_LO its bits 7:0, REG_READ_HI its bits 15:8; a read changes
nothing. -/
def Obligations.RegisterReads : Prop :=
  ∀ (r : Gpr) (s : State),
    encode (.regRead r) = 0x6000000000000000 ||| (r.code.setWidth 64 <<< 54) ∧
    encode (.regReadLo r) = 0x6800000000000000 ||| (r.code.setWidth 64 <<< 54) ∧
    encode (.regReadHi r) = 0x6C00000000000000 ||| (r.code.setWidth 64 <<< 54) ∧
    exec (.regRead r) s = .next { s with response := some (.value (s.gpr.get r)) } ∧
    exec (.regReadLo r) s = .next { s with response := some (.value ((s.gpr.get r).extractLsb' 0 8)) } ∧
    exec (.regReadHi r) s = .next { s with response := some (.value ((s.gpr.get r).extractLsb' 8 8)) }

/-- R132: REG_WRITE writes the register, whose bytes are then `v & 0xFF` and `(v >> 8) & 0xFF`; no other register or
field changes. -/
def Obligations.RegisterWrite : Prop :=
  ∀ (r : Gpr) (v : Word) (s : State),
    encode (.regWrite r v) = 0x6400000000000000 ||| (r.code.setWidth 64 <<< 54) ||| v.setWidth 64 ∧
    ∃ t, exec (.regWrite r v) s = .next t ∧ t.gpr.get r = v ∧
      lowByte (t.gpr.get r) = (v &&& 0xFF).setWidth 8 ∧ highByte (t.gpr.get r) = ((v >>> 8) &&& 0xFF).setWidth 8 ∧
      (∀ r', r' ≠ r → t.gpr.get r' = s.gpr.get r') ∧ t = { s with gpr := t.gpr, response := some .written }

/-- R135, R136: a byte write replaces its byte, keeps the other byte, and changes no other register or field. -/
def Obligations.RegisterByteWrites : Prop :=
  ∀ (r : Gpr) (b : Byte) (s : State),
    encode (.regWriteLo r b) = 0x7000000000000000 ||| (r.code.setWidth 64 <<< 54) ||| b.setWidth 64 ∧
    encode (.regWriteHi r b) = 0x7400000000000000 ||| (r.code.setWidth 64 <<< 54) ||| b.setWidth 64 ∧
    (∃ t, exec (.regWriteLo r b) s = .next t ∧ t.gpr.get r = (s.gpr.get r &&& 0xFF00) ||| b.setWidth 16 ∧
      lowByte (t.gpr.get r) = b ∧ highByte (t.gpr.get r) = highByte (s.gpr.get r) ∧
      (∀ r', r' ≠ r → t.gpr.get r' = s.gpr.get r') ∧ t = { s with gpr := t.gpr, response := some .written }) ∧
    (∃ t, exec (.regWriteHi r b) s = .next t ∧
      t.gpr.get r = (s.gpr.get r &&& 0x00FF) ||| (b.setWidth 16 <<< 8) ∧
      highByte (t.gpr.get r) = b ∧ lowByte (t.gpr.get r) = lowByte (s.gpr.get r) ∧
      (∀ r', r' ≠ r → t.gpr.get r' = s.gpr.get r') ∧ t = { s with gpr := t.gpr, response := some .written })

/-- R137, R138: PTR_READ answers the register; PTR_WRITE writes it, no other register or field changes, and neither does
any address the translator computes. -/
def Obligations.PointerRegisterCommands : Prop :=
  ∀ (p : PtrReg) (v : Word) (s : State),
    encode (.ptrRead p) = 0x7800000000000000 ||| (p.code.setWidth 64 <<< 54) ∧
    encode (.ptrWrite p v) = 0x7C00000000000000 ||| (p.code.setWidth 64 <<< 54) ||| v.setWidth 64 ∧
    exec (.ptrRead p) s = .next { s with response := some (.value (s.ptr.get p)) } ∧
    ∃ t, exec (.ptrWrite p v) s = .next t ∧ t.ptr.get p = v ∧ (∀ p', p' ≠ p → t.ptr.get p' = s.ptr.get p') ∧
      t = { s with ptr := t.ptr, response := some .written } ∧
      ∀ mode o ovr off, translatedAddress mode o ovr off t = translatedAddress mode o ovr off s

/-! ### Flags -/

/-- R160, R161: FLAG_READ answers the flag; FLAG_WRITE writes it, the other eight flags and every other field keep
their values, and so does every address the translator computes. -/
def Obligations.FlagCommands : Prop :=
  ∀ (f : Flag) (x : Bool) (s : State),
    encode (.flagRead f) = 0x8000000000000000 ||| (f.code.setWidth 64 <<< 54) ∧
    encode (.flagWrite f x) = 0x8400000000000000 ||| (f.code.setWidth 64 <<< 54) ||| (BitVec.ofBool x).setWidth 64 ∧
    exec (.flagRead f) s = .next { s with response := some (.value (BitVec.ofBool (s.flags.get f))) } ∧
    ∃ t, exec (.flagWrite f x) s = .next t ∧ t.flags.get f = x ∧ (∀ g, g ≠ f → t.flags.get g = s.flags.get g) ∧
      t = { s with flags := t.flags, response := some .written } ∧
      ∀ mode o ovr off, translatedAddress mode o ovr off t = translatedAddress mode o ovr off s

/-- R27: no rule reads a flag to decide anything. But for FLAG_READ, a command run with other flags ends in the same
state but for the flags, its response included; and only FLAG_WRITE makes the flags differ from what they were. -/
def Obligations.FlagsDecideNothing : Prop :=
  ∀ (i : Instr) (s : State) (b : FlagBank), (∀ f, i ≠ .flagRead f) →
    ∃ t b', exec i s = .next t ∧ exec i { s with flags := b } = .next { t with flags := b' } ∧
      ((∀ f x, i ≠ .flagWrite f x) → b' = b ∧ t.flags = s.flags)

/-! ### Faults -/

/-- R233: a command that faults writes the fault status and the response and nothing else; the word it records is the
word that was sent. -/
def Obligations.FaultEntryWritesOnlyStatus : Prop :=
  ∀ (w : CommandWord) (s t : State), s.faulted = false → runCommand w s = .next t → t.faulted = true →
    t.fcause ≠ .noFault ∧ t.fcmd = w ∧ t.response = some .faulting ∧
    t = { s with
          faulted := true, fcause := t.fcause, fcmd := w, faddr := t.faddr, response := some .faulting }

/-- R237, with the conditions and `FADDR` of R230: a faulted block refuses; else the first condition that holds is the
one fault the command takes; and where none holds the command answers `OK` and the block has not faulted. -/
def Obligations.FaultChosenByPriority : Prop :=
  ∀ (w : CommandWord) (s : State),
    (s.faulted = true → runCommand w s = .next s.refuse) ∧
    (s.faulted = false → ∀ cause addr, expectedFault w s = some (cause, addr) →
      runCommand w s = .next (s.takeFault w cause addr)) ∧
    (s.faulted = false → expectedFault w s = none →
      ∃ t r, runCommand w s = .next t ∧ t.faulted = false ∧ t.response = some r ∧ r.st = .ok ∧
        t.fcause = s.fcause ∧ t.fcmd = s.fcmd ∧ t.faddr = s.faddr)

/-- R236: while `FAULTED = 1` every command word is refused, and nothing but the response changes. Reset alone clears
`FAULTED`. -/
def Obligations.FaultedBlockRefuses : Prop :=
  ∀ s : State, s.faulted = true →
    (∀ w : CommandWord, runCommand w s = .next { s with response := some .refusing }) ∧
    (∀ (x : Input) (t : State), serve x s = .next t → t.faulted = false → ∃ d, x = .reset d) ∧
    (∀ d : ResetDraw, ∃ t, serve (.reset d) s = .next t ∧ t.faulted = false)

/-- R241, R240: however many commands follow a fault, the fault status and every other field stay as the fault left
them. -/
def Obligations.FaultIsKeptUntilReset : Prop :=
  ∀ (s : State) (ws : List CommandWord) (rest : List Input), s.faulted = true → ws ≠ [] →
    s.input = ws.map .command ++ rest →
    Host.Core.run Sys2Proof.core ws.length s = .next { s with input := rest, response := some .refusing }

/-! ### Reset -/

/-- R260: reset, from any state and for every draw of `RESET_STATE`, leaves every field of the spec's record at its
value of R33. -/
def Obligations.ResetLeavesEveryField : Prop :=
  ∀ (s : State) (d : ResetDraw),
    ∃ t, serve (.reset d) s = .next t ∧ (∀ a, t.mem.read a = 0x00) ∧ t.latchValid = false ∧ t.seg = d.seg ∧ t.ip = d.ip ∧
      t.gpr = d.gpr ∧ t.ptr = d.ptr ∧ t.flags = d.flags ∧ t.pq = [] ∧
      t.faulted = false ∧ t.fcause = .noFault ∧ t.fcmd = 0 ∧ t.faddr = 0

/-- The invariant holds after reset, for every draw and all parameters that R5 allows, and at the model's
`State.reset`, whose draw and parameters are the model's choice (A4, A5, A6). -/
def Obligations.ResetMeetsInvariant : Prop :=
  (∀ (p : Params) (d : ResetDraw), p.wf = true → (State.powerOn p d).Inv) ∧ State.reset.Inv

/-! ### The step -/

/-- Every step keeps the invariant: memory in its canonical form and below 0x100000 (R30), the queue within `PQ_CAP`
(R28), the fault status explaining itself (R32), the last response as R84 shapes it. -/
def Obligations.StepKeepsInvariant : Prop :=
  ∀ s t : State, s.Inv → step s = .next t → t.Inv

/-- The block never blocks and never stops a run (R248): every step has a next state, since every fault is entered and
every refused command answered. -/
def Obligations.StepAlwaysHasNextState : Prop :=
  ∀ s : State, ∃ t, step s = .next t

/-- R51: the inputs are served one per step in the order they were sent; none waits, is reordered or is dropped, and
the parameters never change. A step serves the oldest input, be it a reset, a legal word or an illegal one, and leaves
the later ones. With nothing sent the block does nothing (the model's choice, A2). -/
def Obligations.StepServesOldestInput : Prop :=
  ∀ s : State,
    (s.input = [] → step s = .next s) ∧
    (∀ x rest, s.input = x :: rest →
      step s = serve x { s with input := rest } ∧ ∃ t, step s = .next t ∧ t.input = rest ∧ t.params = s.params)

/-- R80: when the block has not faulted and the oldest input is a word that means `i`, the step is the rule of `i`, with
the input taken. -/
def Obligations.StepRunsDecodedCommand : Prop :=
  ∀ (s : State) (w : CommandWord) (rest : List Input) (i : Instr),
    s.faulted = false → s.input = .command w :: rest → decode w = .ok i →
    step s = exec i { s with input := rest }

/-- R84: every command gets one response. Its `st` is 2 (`REFUSED`) when the block had faulted, 1 (`FAULT`) when the
command faults and 0 (`OK`) else; `rvalid` is 1 exactly when a value is returned, and `rdata` is 0 otherwise. -/
def Obligations.ResponseShape : Prop :=
  ∀ (w : CommandWord) (s : State),
    ∃ t r, runCommand w s = .next t ∧ t.response = some r ∧ (r.rvalid = false → r.rdata = 0) ∧
      r.st.code = (if s.faulted = true then 2 else if t.faulted = true then 1 else 0) ∧
      (s.faulted = true → r = .refusing) ∧
      (s.faulted = false → t.faulted = true → r = .faulting) ∧
      (∀ i, s.faulted = false → t.faulted = false → decode w = .ok i →
        (r.rvalid = true ↔ i.resultWidth?.isSome = true ∧ ¬(i = .pqPop ∧ s.pq = [])))

/-- R86: a result is zero-extended: a byte in `rdata[7:0]`, a 16-bit value in `rdata[15:0]`, an address in
`rdata[20:0]`, a bit in `rdata[0]`. -/
def Obligations.ResultsAreZeroExtended : Prop :=
  ∀ (i : Instr) (s t : State) (r : Response) (n : Nat), exec i s = .next t → t.response = some r →
    i.resultWidth? = some n → r.rdata.toNat < 2 ^ n

/-! ### What may change what -/

/-- R162, R27: a flag changes only by FLAG_WRITE of that flag, or reset. -/
def Obligations.FlagChangesOnlyByFlagWrite : Prop :=
  ∀ (s t : State) (f : Flag), step s = .next t → t.flags.get f ≠ s.flags.get f →
    (∃ x, s.runs (.flagWrite f x) ∧ t.flags.get f = x) ∨ ∃ d, s.resets d

/-- R23: `IP` changes only by IP_WRITE, or reset; no command advances it. -/
def Obligations.IpChangesOnlyByIpWrite : Prop :=
  ∀ s t : State, step s = .next t → t.ip ≠ s.ip →
    (∃ v, s.runs (.ipWrite v) ∧ t.ip = v) ∨ ∃ d, s.resets d

/-- R22: a segment register changes only by SEG_WRITE of that register, or reset. -/
def Obligations.SegmentChangesOnlyBySegWrite : Prop :=
  ∀ (s t : State) (r : SegReg), step s = .next t → t.seg.get r ≠ s.seg.get r →
    (∃ v, s.runs (.segWrite r v) ∧ t.seg.get r = v) ∨ ∃ d, s.resets d

/-- R24: a general-purpose register changes only by a REG_WRITE, REG_WRITE_LO or REG_WRITE_HI of that register, or
reset. -/
def Obligations.RegisterChangesOnlyByRegWrite : Prop :=
  ∀ (s t : State) (r : Gpr), step s = .next t → t.gpr.get r ≠ s.gpr.get r →
    (∃ v, s.runs (.regWrite r v)) ∨ (∃ b, s.runs (.regWriteLo r b)) ∨ (∃ b, s.runs (.regWriteHi r b)) ∨
      ∃ d, s.resets d

/-- R26: a pointer or index register changes only by PTR_WRITE of that register, or reset. -/
def Obligations.PointerChangesOnlyByPtrWrite : Prop :=
  ∀ (s t : State) (p : PtrReg), step s = .next t → t.ptr.get p ≠ s.ptr.get p →
    (∃ v, s.runs (.ptrWrite p v) ∧ t.ptr.get p = v) ∨ ∃ d, s.resets d

/-- R28, R63: the queue changes only by PQ_PUSH, at the tail, by PQ_POP, at the head, or by reset; no memory write
changes it. -/
def Obligations.QueueChangesOnlyByPushAndPop : Prop :=
  ∀ s t : State, step s = .next t → t.pq ≠ s.pq →
    (∃ b, s.runs (.pqPush b) ∧ t.pq = s.pq ++ [b]) ∨ (∃ b, s.runs .pqPop ∧ s.pq = b :: t.pq) ∨ ∃ d, s.resets d

/-- R29: the latch changes only by BUS_LATCH, by a translation with `L = 1`, or by reset; no transfer changes it. -/
def Obligations.LatchChangesOnlyByLatching : Prop :=
  ∀ s t : State, step s = .next t → t.latch ≠ s.latch ∨ t.latchValid ≠ s.latchValid →
    (∃ a, s.runs (.busLatch a)) ∨ (∃ mode o ovr off, s.runs (.xlat mode o true ovr off)) ∨ ∃ d, s.resets d

/-- R50, R58: a byte of memory changes only by BUS_WRITE with that address latched, or by reset. -/
def Obligations.MemoryChangesOnlyByBusWrite : Prop :=
  ∀ (s t : State) (a : Nat), step s = .next t → t.mem.read a ≠ s.mem.read a →
    (∃ v, s.runs (.busWrite v) ∧ s.latchValid = true ∧ a = s.latch.toNat ∧ a < 0x100000) ∨ ∃ d, s.resets d

/-- R32: the fault status changes only when a command faults, which takes the block from not faulted to faulted, or by
reset. -/
def Obligations.FaultStatusChangesOnlyByFault : Prop :=
  ∀ s t : State, step s = .next t →
    t.faulted ≠ s.faulted ∨ t.fcause ≠ s.fcause ∨ t.fcmd ≠ s.fcmd ∨ t.faddr ≠ s.faddr →
    (s.faulted = false ∧ t.faulted = true) ∨ ∃ d, s.resets d

/-! ### What must not be observable -/

/-- R33, I4: while `LATCH_VALID = 0` the value of `LATCH` is not observable: a step from another value of it ends in the
same state but for `LATCH`, and once `LATCH_VALID` is 1 in the same state altogether. -/
def Obligations.LatchUnobservableUntilValid : Prop :=
  ∀ (s : State) (a : BusAddr), s.latchValid = false →
    ∃ t a', step s = .next t ∧ step { s with latch := a } = .next { t with latch := a' } ∧
      (t.latchValid = true → a' = t.latch)

/-- R262: no rule reads `CPU_MODE`: a step in the other mode ends in the same state but for the mode itself. -/
def Obligations.CpuModeIsReadByNoRule : Prop :=
  ∀ (s : State) (m : CpuMode),
    ∃ t, step s = .next t ∧
      step { s with params := { s.params with cpuMode := m } } =
        .next { t with params := { t.params with cpuMode := m } }

/-! ### Assembler and pseudo-commands -/

/-- R93: a value that does not fit its field is rejected, in every row of R92 that takes a number; one that fits is the
operand. -/
def Obligations.AssemblerRejectsWhatDoesNotFit : Prop :=
  ∀ n : Nat,
    (⟨"BUS_LATCH", some (.number n), []⟩ : AsmLine).assemble? =
      (if n ≤ 0xFFFFFFFF then some (.busLatch (BitVec.ofNat 32 n)) else none) ∧
    (⟨"BUS_WRITE", some (.number n), []⟩ : AsmLine).assemble? =
      (if n ≤ 0xFF then some (.busWrite (BitVec.ofNat 8 n)) else none) ∧
    (⟨"PQ_PUSH", some (.number n), []⟩ : AsmLine).assemble? =
      (if n ≤ 0xFF then some (.pqPush (BitVec.ofNat 8 n)) else none) ∧
    (⟨"IP_WRITE", some (.number n), []⟩ : AsmLine).assemble? =
      (if n ≤ 0xFFFF then some (.ipWrite (BitVec.ofNat 16 n)) else none) ∧
    (⟨"XLAT_FETCH", none, [.override n]⟩ : AsmLine).assemble? =
      (if n ≤ 0xFFFF then some (.xlatFetch true false (BitVec.ofNat 16 n)) else none) ∧
    (∀ mode name, (mode, name) ∈ [(AddrMode.stack, "XLAT_STACK"), (.strSrc, "XLAT_STRSRC"), (.strDst, "XLAT_STRDST"),
        (.data, "XLAT_DATA"), (.bpData, "XLAT_BPDATA")] →
      (⟨name, some (.number n), []⟩ : AsmLine).assemble? =
        (if n ≤ 0xFFFF then some (.xlat mode false false 0 (BitVec.ofNat 16 n)) else none) ∧
      (⟨name, some (.number 0), [.override n, .latch]⟩ : AsmLine).assemble? =
        (if n ≤ 0xFFFF then some (.xlat mode true true (BitVec.ofNat 16 n) 0) else none)) ∧
    (⟨"SEG_WRITE", some (.name "DS"), [.number n]⟩ : AsmLine).assemble? =
      (if n ≤ 0xFFFF then some (.segWrite .ds (BitVec.ofNat 16 n)) else none) ∧
    (⟨"REG_WRITE", some (.name "AX"), [.number n]⟩ : AsmLine).assemble? =
      (if n ≤ 0xFFFF then some (.regWrite .ax (BitVec.ofNat 16 n)) else none) ∧
    (⟨"REG_WRITE_LO", some (.name "AL"), [.number n]⟩ : AsmLine).assemble? =
      (if n ≤ 0xFF then some (.regWriteLo .ax (BitVec.ofNat 8 n)) else none) ∧
    (⟨"REG_WRITE_HI", some (.name "AH"), [.number n]⟩ : AsmLine).assemble? =
      (if n ≤ 0xFF then some (.regWriteHi .ax (BitVec.ofNat 8 n)) else none) ∧
    (⟨"PTR_WRITE", some (.name "SP"), [.number n]⟩ : AsmLine).assemble? =
      (if n ≤ 0xFFFF then some (.ptrWrite .sp (BitVec.ofNat 16 n)) else none) ∧
    (⟨"FLAG_WRITE", some (.name "TF"), [.number n]⟩ : AsmLine).assemble? =
      (if n ≤ 1 then some (.flagWrite .trap (decide (n = 1))) else none)

/-- R94, R54: STW stores the low byte at the translated offset and the high byte at `(off + 1) & 0xFFFF` in the same
segment, and no other byte of memory changes; nothing but memory and the latch changes. In the fetch mode, which has no
offset, both bytes go to the one address, so the high byte stays (A15). -/
def Obligations.StoreWordIsLittleEndian : Prop :=
  ∀ (s : State) (mode : AddrMode) (off w : Word) (ovr : Option Word) (rest : List Input),
    let first := (translatedAddress mode ovr.isSome (ovr.getD 0) off s).toNat
    let second := (translatedAddress mode ovr.isSome (ovr.getD 0) (off + 1) s).toNat
    s.faulted = false → s.mem.wf = true → first < addressSpaceSize → second < addressSpaceSize →
    s.input = commands (Pseudo.stw mode off w ovr).expand ++ rest →
    ∃ t, Host.Core.run Sys2Proof.core 4 s = .next t ∧
      (mode ≠ .fetch → t.mem.read first = lowByte w) ∧ t.mem.read second = highByte w ∧
      (∀ a, a ≠ first → a ≠ second → t.mem.read a = s.mem.read a) ∧
      t = { s with mem := t.mem, latch := t.latch, latchValid := true, input := rest, response := some .written }

/-- R94: LDW answers the byte at the translated offset second and the byte at `(off + 1) & 0xFFFF` in the same segment
fourth; memory is unchanged, as is everything but the latch. In the fetch mode, which has no offset, both answers are
the byte at the one address `CS:IP` (A15). -/
def Obligations.LoadWordReadsBothBytes : Prop :=
  ∀ (s : State) (mode : AddrMode) (off : Word) (ovr : Option Word) (rest : List Input),
    let first := (translatedAddress mode ovr.isSome (ovr.getD 0) off s).toNat
    let second := (translatedAddress mode ovr.isSome (ovr.getD 0) (off + 1) s).toNat
    s.faulted = false → first < addressSpaceSize → second < addressSpaceSize →
    s.input = commands (Pseudo.ldw mode off ovr).expand ++ rest →
    ∃ t u, Host.Core.run Sys2Proof.core 2 s = .next t ∧ t.response = some (.value (s.mem.read first)) ∧
      Host.Core.run Sys2Proof.core 4 s = .next u ∧ u.response = some (.value (s.mem.read second)) ∧
      u = { s with latch := u.latch, latchValid := true, input := rest, response := u.response }

/-- R94, R208: DRAINPQ, as the pops that its loop sends (A16), empties the queue: each queued byte is answered with
`rvalid = 1`, oldest first, and the pop after the last answers "no value". -/
def Obligations.DrainEmptiesQueue : Prop :=
  ∀ (s : State) (rest : List Input), s.faulted = false → s.input = commands (drainPq s.pq.length) ++ rest →
    (∀ (k : Nat) (hk : k < s.pq.length), ∃ t, Host.Core.run Sys2Proof.core (k + 1) s = .next t ∧
      t.response = some (.value s.pq[k])) ∧
    Host.Core.run Sys2Proof.core (s.pq.length + 1) s =
      .next { s with pq := [], input := rest, response := some .written }
end

