-- ==== Sys2Proof/Laws/Encoding.lean ====
section
/-! SUPPORT. Words and fields are the same thing (R81), selectors and their codes are (R89), and the decoder's field
checks pass on what the encoder wrote. -/

namespace Sys2Proof

/-- A field shifted to its place has a bit exactly in its own range. -/
theorem getLsbD_field {n : Nat} (x : BitVec n) (k j : Nat) (hj : j < 64) :
    (x.setWidth 64 <<< k).getLsbD j = if k ≤ j ∧ j < k + n then x.getLsbD (j - k) else false := by
  rw [BitVec.getLsbD_shiftLeft, BitVec.getLsbD_setWidth]
  by_cases h : k ≤ j ∧ j < k + n
  · have h1 : ¬ j < k := by omega
    have h2 : j - k < 64 := by omega
    simp [h, hj, h1, h2]
  · rw [if_neg h]
    by_cases h1 : j < k
    · simp [h1]
    · rw [BitVec.getLsbD_of_ge x (j - k) (by omega)]
      simp

theorem Fields.getLsbD_toWord (f : Fields) (j : Nat) (hj : j < 64) :
    f.toWord.getLsbD j =
      if j < 32 then f.imm.getLsbD j
      else if j < 48 then f.ovr.getLsbD (j - 32)
      else if j < 52 then f.rsv.getLsbD (j - 48)
      else if j < 53 then f.l
      else if j < 54 then f.o
      else if j < 58 then f.sel.getLsbD (j - 54)
      else f.opc.getLsbD (j - 58) := by
  have himm : (f.imm.setWidth 64).getLsbD j = if j < 32 then f.imm.getLsbD j else false := by
    simpa using getLsbD_field f.imm 0 j hj
  simp only [Fields.toWord, BitVec.getLsbD_or, himm, getLsbD_field _ _ j hj, Nat.reduceAdd,
    BitVec.getLsbD_ofBool]
  by_cases h1 : j < 32
  · have : ¬ 32 ≤ j ∧ ¬ 48 ≤ j ∧ ¬ 52 ≤ j ∧ ¬ 53 ≤ j ∧ ¬ 54 ≤ j ∧ ¬ 58 ≤ j := by omega
    simp [h1, this]
  by_cases h2 : j < 48
  · have : 32 ≤ j ∧ ¬ 48 ≤ j ∧ ¬ 52 ≤ j ∧ ¬ 53 ≤ j ∧ ¬ 54 ≤ j ∧ ¬ 58 ≤ j := by omega
    simp [h1, h2, this]
  by_cases h3 : j < 52
  · have : 32 ≤ j ∧ 48 ≤ j ∧ ¬ 52 ≤ j ∧ ¬ 53 ≤ j ∧ ¬ 54 ≤ j ∧ ¬ 58 ≤ j := by omega
    simp [h1, h2, h3, this]
  by_cases h4 : j < 53
  · have : 52 ≤ j ∧ ¬ 53 ≤ j ∧ ¬ 54 ≤ j ∧ ¬ 58 ≤ j ∧ j ≤ 52 := by omega
    simp [h1, h2, h3, h4, this]
  by_cases h5 : j < 54
  · have : 53 ≤ j ∧ ¬ 54 ≤ j ∧ ¬ 58 ≤ j ∧ j ≤ 53 := by omega
    simp [h1, h2, h3, h4, h5, this]
  by_cases h6 : j < 58
  · have : 54 ≤ j ∧ ¬ 58 ≤ j := by omega
    simp [h1, h2, h3, h4, h5, h6, this]
  · have : 58 ≤ j := by omega
    simp [h1, h2, h3, h4, h5, h6, this, hj]

/-- No field of a word is dropped or misplaced. -/
theorem Fields.ofWord_toWord (f : Fields) : Fields.ofWord f.toWord = f := by
  have ext := @BitVec.eq_of_getLsbD_eq
  obtain ⟨opc, sel, o, l, rsv, ovr, imm⟩ := f
  simp only [Fields.ofWord, Fields.mk.injEq]
  refine ⟨ext fun i hi => ?_, ext fun i hi => ?_, ?_, ?_, ext fun i hi => ?_, ext fun i hi => ?_, ext fun i hi => ?_⟩
  case refine_3 => rw [Fields.getLsbD_toWord _ _ (by decide)]; simp
  case refine_4 => rw [Fields.getLsbD_toWord _ _ (by decide)]; simp
  all_goals
    simp only [BitVec.getLsbD_extractLsb', hi, decide_true, Bool.true_and]
    rw [Fields.getLsbD_toWord _ _ (by omega)]
    repeat rw [if_neg (by omega)]
    try rw [if_pos (by omega)]
    simp

/-- No bit of a word is outside the fields. -/
theorem Fields.toWord_ofWord (w : CommandWord) : (Fields.ofWord w).toWord = w := by
  refine BitVec.eq_of_getLsbD_eq fun j hj => ?_
  rw [Fields.getLsbD_toWord _ j hj]
  simp only [Fields.ofWord, BitVec.getLsbD_extractLsb']
  split_ifs with h1 h2 h3 h4 h5 h6
  · simp [h1]
  · rw [decide_eq_true (by omega), Bool.true_and, show 32 + (j - 32) = j by omega]
  · rw [decide_eq_true (by omega), Bool.true_and, show 48 + (j - 48) = j by omega]
  · rw [show j = 52 by omega]
  · rw [show j = 53 by omega]
  · rw [decide_eq_true (by omega), Bool.true_and, show 54 + (j - 54) = j by omega]
  · rw [decide_eq_true (by omega), Bool.true_and, show 58 + (j - 58) = j by omega]

theorem Fields.toWord_injective {f g : Fields} (h : f.toWord = g.toWord) : f = g := by
  rw [← Fields.ofWord_toWord f, h, Fields.ofWord_toWord]

/-! ### Selector codes -/

@[simp] theorem SegReg.ofCode?_code (r : SegReg) : SegReg.ofCode? r.code = some r := by cases r <;> rfl
@[simp] theorem Gpr.ofCode?_code (r : Gpr) : Gpr.ofCode? r.code = some r := by cases r <;> rfl
@[simp] theorem PtrReg.ofCode?_code (p : PtrReg) : PtrReg.ofCode? p.code = some p := by cases p <;> rfl
@[simp] theorem Flag.ofCode?_code (f : Flag) : Flag.ofCode? f.code = some f := by cases f <;> rfl

theorem SegReg.code_of_ofCode? : ∀ {c : BitVec 4} {r : SegReg}, SegReg.ofCode? c = some r → r.code = c := by decide
theorem Gpr.code_of_ofCode? : ∀ {c : BitVec 4} {r : Gpr}, Gpr.ofCode? c = some r → r.code = c := by decide
theorem PtrReg.code_of_ofCode? : ∀ {c : BitVec 4} {p : PtrReg}, PtrReg.ofCode? c = some p → p.code = c := by decide
theorem Flag.code_of_ofCode? : ∀ {c : BitVec 4} {f : Flag}, Flag.ofCode? c = some f → f.code = c := by decide

theorem SegReg.ofCode?_isSome : ∀ c : BitVec 4, (SegReg.ofCode? c).isSome = decide (c.toNat ≤ 3) := by decide
theorem Gpr.ofCode?_isSome : ∀ c : BitVec 4, (Gpr.ofCode? c).isSome = decide (c.toNat ≤ 3) := by decide
theorem PtrReg.ofCode?_isSome : ∀ c : BitVec 4, (PtrReg.ofCode? c).isSome = decide (c.toNat ≤ 3) := by decide
theorem Flag.ofCode?_isSome : ∀ c : BitVec 4, (Flag.ofCode? c).isSome = decide (c.toNat ≤ 8) := by decide

/-! ### Field checks -/

/-- The check of an immediate of `n` bits passes exactly when the bits above are 0 (R85), and passes on an operand that
zero-extends to `imm` (R86). -/
theorem Fields.withImm_eq_ok {f : Fields} {n : Nat} {k : BitVec n → Except Illegal Instr} {i : Instr} (hn : n ≤ 32) :
    f.withImm n k = .ok i ↔ ∃ v : BitVec n, f.imm = v.setWidth 32 ∧ k v = .ok i := by
  unfold Fields.withImm
  constructor
  · intro h
    split at h
    · next hz =>
      refine ⟨_, ?_, h⟩
      apply BitVec.eq_of_toNat_eq
      have hlt : f.imm.toNat < 2 ^ n := by
        have := congrArg BitVec.toNat hz
        rw [BitVec.toNat_ushiftRight, Nat.shiftRight_eq_div_pow] at this
        exact (Nat.div_eq_zero_iff_lt (Nat.two_pow_pos n)).mp (by simpa using this)
      rw [BitVec.toNat_setWidth, BitVec.toNat_setWidth, Nat.mod_eq_of_lt hlt, Nat.mod_eq_of_lt f.imm.isLt]
    · cases h
  · rintro ⟨v, hv, hk⟩
    have hle : 2 ^ n ≤ 2 ^ 32 := Nat.pow_le_pow_right (by omega) hn
    have hz : f.imm >>> n = 0 := by
      apply BitVec.eq_of_toNat_eq
      rw [hv, BitVec.toNat_ushiftRight, BitVec.toNat_setWidth, Nat.mod_eq_of_lt (by omega),
        Nat.shiftRight_eq_div_pow, Nat.div_eq_of_lt v.isLt]
      rfl
    rw [if_pos hz, hv, BitVec.setWidth_setWidth_of_le v hn, BitVec.setWidth_eq, hk]

theorem Fields.noSel_eq_ok {f : Fields} {k : Except Illegal Instr} {i : Instr} :
    f.noSel k = .ok i ↔ f.sel = 0 ∧ k = .ok i := by
  unfold Fields.noSel
  split <;> simp_all

theorem Fields.withSel_eq_ok {α : Type} {f : Fields} {ofCode? : BitVec 4 → Option α} {k : α → Except Illegal Instr}
    {i : Instr} : f.withSel ofCode? k = .ok i ↔ ∃ a, ofCode? f.sel = some a ∧ k a = .ok i := by
  unfold Fields.withSel
  split <;> simp_all

theorem Fields.noXlat_eq_ok {f : Fields} {k : Except Illegal Instr} {i : Instr} :
    f.noXlat k = .ok i ↔ (f.o = false ∧ f.l = false ∧ f.ovr = 0) ∧ k = .ok i := by
  unfold Fields.noXlat
  split <;> simp_all

theorem Fields.noImm_eq_ok {f : Fields} {k : Except Illegal Instr} {i : Instr} :
    f.noImm k = .ok i ↔ f.imm = 0 ∧ k = .ok i := by
  unfold Fields.noImm
  split <;> simp_all

end Sys2Proof
end

