-- ==== Sys2Proof/Laws/State.lean ====
section
/-! SUPPORT. One lemma per field and update of State, so that no later proof unfolds a record update; reading a register
file after writing it. -/

namespace Sys2Proof.Machine

variable (s : State)

/-! ### setSeg -/

@[simp] theorem State.setSeg_mem (r : SegReg) (v : Word) : (s.setSeg r v).mem = s.mem := rfl
@[simp] theorem State.setSeg_latch (r : SegReg) (v : Word) : (s.setSeg r v).latch = s.latch := rfl
@[simp] theorem State.setSeg_latchValid (r : SegReg) (v : Word) : (s.setSeg r v).latchValid = s.latchValid := rfl
@[simp] theorem State.setSeg_seg (r : SegReg) (v : Word) : (s.setSeg r v).seg = s.seg.set r v := rfl
@[simp] theorem State.setSeg_ip (r : SegReg) (v : Word) : (s.setSeg r v).ip = s.ip := rfl
@[simp] theorem State.setSeg_pq (r : SegReg) (v : Word) : (s.setSeg r v).pq = s.pq := rfl
@[simp] theorem State.setSeg_gpr (r : SegReg) (v : Word) : (s.setSeg r v).gpr = s.gpr := rfl
@[simp] theorem State.setSeg_ptr (r : SegReg) (v : Word) : (s.setSeg r v).ptr = s.ptr := rfl
@[simp] theorem State.setSeg_flags (r : SegReg) (v : Word) : (s.setSeg r v).flags = s.flags := rfl
@[simp] theorem State.setSeg_faulted (r : SegReg) (v : Word) : (s.setSeg r v).faulted = s.faulted := rfl
@[simp] theorem State.setSeg_fcause (r : SegReg) (v : Word) : (s.setSeg r v).fcause = s.fcause := rfl
@[simp] theorem State.setSeg_fcmd (r : SegReg) (v : Word) : (s.setSeg r v).fcmd = s.fcmd := rfl
@[simp] theorem State.setSeg_faddr (r : SegReg) (v : Word) : (s.setSeg r v).faddr = s.faddr := rfl
@[simp] theorem State.setSeg_params (r : SegReg) (v : Word) : (s.setSeg r v).params = s.params := rfl
@[simp] theorem State.setSeg_input (r : SegReg) (v : Word) : (s.setSeg r v).input = s.input := rfl
@[simp] theorem State.setSeg_response (r : SegReg) (v : Word) : (s.setSeg r v).response = s.response := rfl

/-! ### setIp -/

@[simp] theorem State.setIp_mem (v : Word) : (s.setIp v).mem = s.mem := rfl
@[simp] theorem State.setIp_latch (v : Word) : (s.setIp v).latch = s.latch := rfl
@[simp] theorem State.setIp_latchValid (v : Word) : (s.setIp v).latchValid = s.latchValid := rfl
@[simp] theorem State.setIp_seg (v : Word) : (s.setIp v).seg = s.seg := rfl
@[simp] theorem State.setIp_ip (v : Word) : (s.setIp v).ip = v := rfl
@[simp] theorem State.setIp_pq (v : Word) : (s.setIp v).pq = s.pq := rfl
@[simp] theorem State.setIp_gpr (v : Word) : (s.setIp v).gpr = s.gpr := rfl
@[simp] theorem State.setIp_ptr (v : Word) : (s.setIp v).ptr = s.ptr := rfl
@[simp] theorem State.setIp_flags (v : Word) : (s.setIp v).flags = s.flags := rfl
@[simp] theorem State.setIp_faulted (v : Word) : (s.setIp v).faulted = s.faulted := rfl
@[simp] theorem State.setIp_fcause (v : Word) : (s.setIp v).fcause = s.fcause := rfl
@[simp] theorem State.setIp_fcmd (v : Word) : (s.setIp v).fcmd = s.fcmd := rfl
@[simp] theorem State.setIp_faddr (v : Word) : (s.setIp v).faddr = s.faddr := rfl
@[simp] theorem State.setIp_params (v : Word) : (s.setIp v).params = s.params := rfl
@[simp] theorem State.setIp_input (v : Word) : (s.setIp v).input = s.input := rfl
@[simp] theorem State.setIp_response (v : Word) : (s.setIp v).response = s.response := rfl

/-! ### setGpr -/

@[simp] theorem State.setGpr_mem (r : Gpr) (v : Word) : (s.setGpr r v).mem = s.mem := rfl
@[simp] theorem State.setGpr_latch (r : Gpr) (v : Word) : (s.setGpr r v).latch = s.latch := rfl
@[simp] theorem State.setGpr_latchValid (r : Gpr) (v : Word) : (s.setGpr r v).latchValid = s.latchValid := rfl
@[simp] theorem State.setGpr_seg (r : Gpr) (v : Word) : (s.setGpr r v).seg = s.seg := rfl
@[simp] theorem State.setGpr_ip (r : Gpr) (v : Word) : (s.setGpr r v).ip = s.ip := rfl
@[simp] theorem State.setGpr_pq (r : Gpr) (v : Word) : (s.setGpr r v).pq = s.pq := rfl
@[simp] theorem State.setGpr_gpr (r : Gpr) (v : Word) : (s.setGpr r v).gpr = s.gpr.set r v := rfl
@[simp] theorem State.setGpr_ptr (r : Gpr) (v : Word) : (s.setGpr r v).ptr = s.ptr := rfl
@[simp] theorem State.setGpr_flags (r : Gpr) (v : Word) : (s.setGpr r v).flags = s.flags := rfl
@[simp] theorem State.setGpr_faulted (r : Gpr) (v : Word) : (s.setGpr r v).faulted = s.faulted := rfl
@[simp] theorem State.setGpr_fcause (r : Gpr) (v : Word) : (s.setGpr r v).fcause = s.fcause := rfl
@[simp] theorem State.setGpr_fcmd (r : Gpr) (v : Word) : (s.setGpr r v).fcmd = s.fcmd := rfl
@[simp] theorem State.setGpr_faddr (r : Gpr) (v : Word) : (s.setGpr r v).faddr = s.faddr := rfl
@[simp] theorem State.setGpr_params (r : Gpr) (v : Word) : (s.setGpr r v).params = s.params := rfl
@[simp] theorem State.setGpr_input (r : Gpr) (v : Word) : (s.setGpr r v).input = s.input := rfl
@[simp] theorem State.setGpr_response (r : Gpr) (v : Word) : (s.setGpr r v).response = s.response := rfl

/-! ### setPtr -/

@[simp] theorem State.setPtr_mem (p : PtrReg) (v : Word) : (s.setPtr p v).mem = s.mem := rfl
@[simp] theorem State.setPtr_latch (p : PtrReg) (v : Word) : (s.setPtr p v).latch = s.latch := rfl
@[simp] theorem State.setPtr_latchValid (p : PtrReg) (v : Word) : (s.setPtr p v).latchValid = s.latchValid := rfl
@[simp] theorem State.setPtr_seg (p : PtrReg) (v : Word) : (s.setPtr p v).seg = s.seg := rfl
@[simp] theorem State.setPtr_ip (p : PtrReg) (v : Word) : (s.setPtr p v).ip = s.ip := rfl
@[simp] theorem State.setPtr_pq (p : PtrReg) (v : Word) : (s.setPtr p v).pq = s.pq := rfl
@[simp] theorem State.setPtr_gpr (p : PtrReg) (v : Word) : (s.setPtr p v).gpr = s.gpr := rfl
@[simp] theorem State.setPtr_ptr (p : PtrReg) (v : Word) : (s.setPtr p v).ptr = s.ptr.set p v := rfl
@[simp] theorem State.setPtr_flags (p : PtrReg) (v : Word) : (s.setPtr p v).flags = s.flags := rfl
@[simp] theorem State.setPtr_faulted (p : PtrReg) (v : Word) : (s.setPtr p v).faulted = s.faulted := rfl
@[simp] theorem State.setPtr_fcause (p : PtrReg) (v : Word) : (s.setPtr p v).fcause = s.fcause := rfl
@[simp] theorem State.setPtr_fcmd (p : PtrReg) (v : Word) : (s.setPtr p v).fcmd = s.fcmd := rfl
@[simp] theorem State.setPtr_faddr (p : PtrReg) (v : Word) : (s.setPtr p v).faddr = s.faddr := rfl
@[simp] theorem State.setPtr_params (p : PtrReg) (v : Word) : (s.setPtr p v).params = s.params := rfl
@[simp] theorem State.setPtr_input (p : PtrReg) (v : Word) : (s.setPtr p v).input = s.input := rfl
@[simp] theorem State.setPtr_response (p : PtrReg) (v : Word) : (s.setPtr p v).response = s.response := rfl

/-! ### setFlag -/

@[simp] theorem State.setFlag_mem (f : Flag) (x : Bool) : (s.setFlag f x).mem = s.mem := rfl
@[simp] theorem State.setFlag_latch (f : Flag) (x : Bool) : (s.setFlag f x).latch = s.latch := rfl
@[simp] theorem State.setFlag_latchValid (f : Flag) (x : Bool) : (s.setFlag f x).latchValid = s.latchValid := rfl
@[simp] theorem State.setFlag_seg (f : Flag) (x : Bool) : (s.setFlag f x).seg = s.seg := rfl
@[simp] theorem State.setFlag_ip (f : Flag) (x : Bool) : (s.setFlag f x).ip = s.ip := rfl
@[simp] theorem State.setFlag_pq (f : Flag) (x : Bool) : (s.setFlag f x).pq = s.pq := rfl
@[simp] theorem State.setFlag_gpr (f : Flag) (x : Bool) : (s.setFlag f x).gpr = s.gpr := rfl
@[simp] theorem State.setFlag_ptr (f : Flag) (x : Bool) : (s.setFlag f x).ptr = s.ptr := rfl
@[simp] theorem State.setFlag_flags (f : Flag) (x : Bool) : (s.setFlag f x).flags = s.flags.set f x := rfl
@[simp] theorem State.setFlag_faulted (f : Flag) (x : Bool) : (s.setFlag f x).faulted = s.faulted := rfl
@[simp] theorem State.setFlag_fcause (f : Flag) (x : Bool) : (s.setFlag f x).fcause = s.fcause := rfl
@[simp] theorem State.setFlag_fcmd (f : Flag) (x : Bool) : (s.setFlag f x).fcmd = s.fcmd := rfl
@[simp] theorem State.setFlag_faddr (f : Flag) (x : Bool) : (s.setFlag f x).faddr = s.faddr := rfl
@[simp] theorem State.setFlag_params (f : Flag) (x : Bool) : (s.setFlag f x).params = s.params := rfl
@[simp] theorem State.setFlag_input (f : Flag) (x : Bool) : (s.setFlag f x).input = s.input := rfl
@[simp] theorem State.setFlag_response (f : Flag) (x : Bool) : (s.setFlag f x).response = s.response := rfl

/-! ### setInput -/

@[simp] theorem State.setInput_mem (xs : List Input) : (s.setInput xs).mem = s.mem := rfl
@[simp] theorem State.setInput_latch (xs : List Input) : (s.setInput xs).latch = s.latch := rfl
@[simp] theorem State.setInput_latchValid (xs : List Input) : (s.setInput xs).latchValid = s.latchValid := rfl
@[simp] theorem State.setInput_seg (xs : List Input) : (s.setInput xs).seg = s.seg := rfl
@[simp] theorem State.setInput_ip (xs : List Input) : (s.setInput xs).ip = s.ip := rfl
@[simp] theorem State.setInput_pq (xs : List Input) : (s.setInput xs).pq = s.pq := rfl
@[simp] theorem State.setInput_gpr (xs : List Input) : (s.setInput xs).gpr = s.gpr := rfl
@[simp] theorem State.setInput_ptr (xs : List Input) : (s.setInput xs).ptr = s.ptr := rfl
@[simp] theorem State.setInput_flags (xs : List Input) : (s.setInput xs).flags = s.flags := rfl
@[simp] theorem State.setInput_faulted (xs : List Input) : (s.setInput xs).faulted = s.faulted := rfl
@[simp] theorem State.setInput_fcause (xs : List Input) : (s.setInput xs).fcause = s.fcause := rfl
@[simp] theorem State.setInput_fcmd (xs : List Input) : (s.setInput xs).fcmd = s.fcmd := rfl
@[simp] theorem State.setInput_faddr (xs : List Input) : (s.setInput xs).faddr = s.faddr := rfl
@[simp] theorem State.setInput_params (xs : List Input) : (s.setInput xs).params = s.params := rfl
@[simp] theorem State.setInput_input (xs : List Input) : (s.setInput xs).input = xs := rfl
@[simp] theorem State.setInput_response (xs : List Input) : (s.setInput xs).response = s.response := rfl

/-! ### latchAddress -/

@[simp] theorem State.latchAddress_mem (a : BusAddr) : (s.latchAddress a).mem = s.mem := rfl
@[simp] theorem State.latchAddress_latch (a : BusAddr) : (s.latchAddress a).latch = a := rfl
@[simp] theorem State.latchAddress_latchValid (a : BusAddr) : (s.latchAddress a).latchValid = true := rfl
@[simp] theorem State.latchAddress_seg (a : BusAddr) : (s.latchAddress a).seg = s.seg := rfl
@[simp] theorem State.latchAddress_ip (a : BusAddr) : (s.latchAddress a).ip = s.ip := rfl
@[simp] theorem State.latchAddress_pq (a : BusAddr) : (s.latchAddress a).pq = s.pq := rfl
@[simp] theorem State.latchAddress_gpr (a : BusAddr) : (s.latchAddress a).gpr = s.gpr := rfl
@[simp] theorem State.latchAddress_ptr (a : BusAddr) : (s.latchAddress a).ptr = s.ptr := rfl
@[simp] theorem State.latchAddress_flags (a : BusAddr) : (s.latchAddress a).flags = s.flags := rfl
@[simp] theorem State.latchAddress_faulted (a : BusAddr) : (s.latchAddress a).faulted = s.faulted := rfl
@[simp] theorem State.latchAddress_fcause (a : BusAddr) : (s.latchAddress a).fcause = s.fcause := rfl
@[simp] theorem State.latchAddress_fcmd (a : BusAddr) : (s.latchAddress a).fcmd = s.fcmd := rfl
@[simp] theorem State.latchAddress_faddr (a : BusAddr) : (s.latchAddress a).faddr = s.faddr := rfl
@[simp] theorem State.latchAddress_params (a : BusAddr) : (s.latchAddress a).params = s.params := rfl
@[simp] theorem State.latchAddress_input (a : BusAddr) : (s.latchAddress a).input = s.input := rfl
@[simp] theorem State.latchAddress_response (a : BusAddr) : (s.latchAddress a).response = s.response := rfl

/-! ### writeByte -/

@[simp] theorem State.writeByte_mem (a : Nat) (v : Byte) : (s.writeByte a v).mem = s.mem.write a v := rfl
@[simp] theorem State.writeByte_latch (a : Nat) (v : Byte) : (s.writeByte a v).latch = s.latch := rfl
@[simp] theorem State.writeByte_latchValid (a : Nat) (v : Byte) : (s.writeByte a v).latchValid = s.latchValid := rfl
@[simp] theorem State.writeByte_seg (a : Nat) (v : Byte) : (s.writeByte a v).seg = s.seg := rfl
@[simp] theorem State.writeByte_ip (a : Nat) (v : Byte) : (s.writeByte a v).ip = s.ip := rfl
@[simp] theorem State.writeByte_pq (a : Nat) (v : Byte) : (s.writeByte a v).pq = s.pq := rfl
@[simp] theorem State.writeByte_gpr (a : Nat) (v : Byte) : (s.writeByte a v).gpr = s.gpr := rfl
@[simp] theorem State.writeByte_ptr (a : Nat) (v : Byte) : (s.writeByte a v).ptr = s.ptr := rfl
@[simp] theorem State.writeByte_flags (a : Nat) (v : Byte) : (s.writeByte a v).flags = s.flags := rfl
@[simp] theorem State.writeByte_faulted (a : Nat) (v : Byte) : (s.writeByte a v).faulted = s.faulted := rfl
@[simp] theorem State.writeByte_fcause (a : Nat) (v : Byte) : (s.writeByte a v).fcause = s.fcause := rfl
@[simp] theorem State.writeByte_fcmd (a : Nat) (v : Byte) : (s.writeByte a v).fcmd = s.fcmd := rfl
@[simp] theorem State.writeByte_faddr (a : Nat) (v : Byte) : (s.writeByte a v).faddr = s.faddr := rfl
@[simp] theorem State.writeByte_params (a : Nat) (v : Byte) : (s.writeByte a v).params = s.params := rfl
@[simp] theorem State.writeByte_input (a : Nat) (v : Byte) : (s.writeByte a v).input = s.input := rfl
@[simp] theorem State.writeByte_response (a : Nat) (v : Byte) : (s.writeByte a v).response = s.response := rfl

/-! ### setQueue -/

@[simp] theorem State.setQueue_mem (q : List Byte) : (s.setQueue q).mem = s.mem := rfl
@[simp] theorem State.setQueue_latch (q : List Byte) : (s.setQueue q).latch = s.latch := rfl
@[simp] theorem State.setQueue_latchValid (q : List Byte) : (s.setQueue q).latchValid = s.latchValid := rfl
@[simp] theorem State.setQueue_seg (q : List Byte) : (s.setQueue q).seg = s.seg := rfl
@[simp] theorem State.setQueue_ip (q : List Byte) : (s.setQueue q).ip = s.ip := rfl
@[simp] theorem State.setQueue_pq (q : List Byte) : (s.setQueue q).pq = q := rfl
@[simp] theorem State.setQueue_gpr (q : List Byte) : (s.setQueue q).gpr = s.gpr := rfl
@[simp] theorem State.setQueue_ptr (q : List Byte) : (s.setQueue q).ptr = s.ptr := rfl
@[simp] theorem State.setQueue_flags (q : List Byte) : (s.setQueue q).flags = s.flags := rfl
@[simp] theorem State.setQueue_faulted (q : List Byte) : (s.setQueue q).faulted = s.faulted := rfl
@[simp] theorem State.setQueue_fcause (q : List Byte) : (s.setQueue q).fcause = s.fcause := rfl
@[simp] theorem State.setQueue_fcmd (q : List Byte) : (s.setQueue q).fcmd = s.fcmd := rfl
@[simp] theorem State.setQueue_faddr (q : List Byte) : (s.setQueue q).faddr = s.faddr := rfl
@[simp] theorem State.setQueue_params (q : List Byte) : (s.setQueue q).params = s.params := rfl
@[simp] theorem State.setQueue_input (q : List Byte) : (s.setQueue q).input = s.input := rfl
@[simp] theorem State.setQueue_response (q : List Byte) : (s.setQueue q).response = s.response := rfl

/-! ### respond -/

@[simp] theorem State.respond_mem (d : BitVec 32) (v : Bool) : (s.respond d v).mem = s.mem := rfl
@[simp] theorem State.respond_latch (d : BitVec 32) (v : Bool) : (s.respond d v).latch = s.latch := rfl
@[simp] theorem State.respond_latchValid (d : BitVec 32) (v : Bool) : (s.respond d v).latchValid = s.latchValid := rfl
@[simp] theorem State.respond_seg (d : BitVec 32) (v : Bool) : (s.respond d v).seg = s.seg := rfl
@[simp] theorem State.respond_ip (d : BitVec 32) (v : Bool) : (s.respond d v).ip = s.ip := rfl
@[simp] theorem State.respond_pq (d : BitVec 32) (v : Bool) : (s.respond d v).pq = s.pq := rfl
@[simp] theorem State.respond_gpr (d : BitVec 32) (v : Bool) : (s.respond d v).gpr = s.gpr := rfl
@[simp] theorem State.respond_ptr (d : BitVec 32) (v : Bool) : (s.respond d v).ptr = s.ptr := rfl
@[simp] theorem State.respond_flags (d : BitVec 32) (v : Bool) : (s.respond d v).flags = s.flags := rfl
@[simp] theorem State.respond_faulted (d : BitVec 32) (v : Bool) : (s.respond d v).faulted = s.faulted := rfl
@[simp] theorem State.respond_fcause (d : BitVec 32) (v : Bool) : (s.respond d v).fcause = s.fcause := rfl
@[simp] theorem State.respond_fcmd (d : BitVec 32) (v : Bool) : (s.respond d v).fcmd = s.fcmd := rfl
@[simp] theorem State.respond_faddr (d : BitVec 32) (v : Bool) : (s.respond d v).faddr = s.faddr := rfl
@[simp] theorem State.respond_params (d : BitVec 32) (v : Bool) : (s.respond d v).params = s.params := rfl
@[simp] theorem State.respond_input (d : BitVec 32) (v : Bool) : (s.respond d v).input = s.input := rfl
@[simp] theorem State.respond_response (d : BitVec 32) (v : Bool) : (s.respond d v).response = some ⟨.ok, d, v⟩ := rfl

/-! ### takeFault -/

@[simp] theorem State.takeFault_mem (w : CommandWord) (c : FaultCause) (a : BusAddr) : (s.takeFault w c a).mem = s.mem := rfl
@[simp] theorem State.takeFault_latch (w : CommandWord) (c : FaultCause) (a : BusAddr) : (s.takeFault w c a).latch = s.latch := rfl
@[simp] theorem State.takeFault_latchValid (w : CommandWord) (c : FaultCause) (a : BusAddr) : (s.takeFault w c a).latchValid = s.latchValid := rfl
@[simp] theorem State.takeFault_seg (w : CommandWord) (c : FaultCause) (a : BusAddr) : (s.takeFault w c a).seg = s.seg := rfl
@[simp] theorem State.takeFault_ip (w : CommandWord) (c : FaultCause) (a : BusAddr) : (s.takeFault w c a).ip = s.ip := rfl
@[simp] theorem State.takeFault_pq (w : CommandWord) (c : FaultCause) (a : BusAddr) : (s.takeFault w c a).pq = s.pq := rfl
@[simp] theorem State.takeFault_gpr (w : CommandWord) (c : FaultCause) (a : BusAddr) : (s.takeFault w c a).gpr = s.gpr := rfl
@[simp] theorem State.takeFault_ptr (w : CommandWord) (c : FaultCause) (a : BusAddr) : (s.takeFault w c a).ptr = s.ptr := rfl
@[simp] theorem State.takeFault_flags (w : CommandWord) (c : FaultCause) (a : BusAddr) : (s.takeFault w c a).flags = s.flags := rfl
@[simp] theorem State.takeFault_faulted (w : CommandWord) (c : FaultCause) (a : BusAddr) : (s.takeFault w c a).faulted = true := rfl
@[simp] theorem State.takeFault_fcause (w : CommandWord) (c : FaultCause) (a : BusAddr) : (s.takeFault w c a).fcause = c := rfl
@[simp] theorem State.takeFault_fcmd (w : CommandWord) (c : FaultCause) (a : BusAddr) : (s.takeFault w c a).fcmd = w := rfl
@[simp] theorem State.takeFault_faddr (w : CommandWord) (c : FaultCause) (a : BusAddr) : (s.takeFault w c a).faddr = a := rfl
@[simp] theorem State.takeFault_params (w : CommandWord) (c : FaultCause) (a : BusAddr) : (s.takeFault w c a).params = s.params := rfl
@[simp] theorem State.takeFault_input (w : CommandWord) (c : FaultCause) (a : BusAddr) : (s.takeFault w c a).input = s.input := rfl
@[simp] theorem State.takeFault_response (w : CommandWord) (c : FaultCause) (a : BusAddr) : (s.takeFault w c a).response = some ⟨.fault, 0, false⟩ := rfl

/-! ### refuse -/

@[simp] theorem State.refuse_mem : s.refuse.mem = s.mem := rfl
@[simp] theorem State.refuse_latch : s.refuse.latch = s.latch := rfl
@[simp] theorem State.refuse_latchValid : s.refuse.latchValid = s.latchValid := rfl
@[simp] theorem State.refuse_seg : s.refuse.seg = s.seg := rfl
@[simp] theorem State.refuse_ip : s.refuse.ip = s.ip := rfl
@[simp] theorem State.refuse_pq : s.refuse.pq = s.pq := rfl
@[simp] theorem State.refuse_gpr : s.refuse.gpr = s.gpr := rfl
@[simp] theorem State.refuse_ptr : s.refuse.ptr = s.ptr := rfl
@[simp] theorem State.refuse_flags : s.refuse.flags = s.flags := rfl
@[simp] theorem State.refuse_faulted : s.refuse.faulted = s.faulted := rfl
@[simp] theorem State.refuse_fcause : s.refuse.fcause = s.fcause := rfl
@[simp] theorem State.refuse_fcmd : s.refuse.fcmd = s.fcmd := rfl
@[simp] theorem State.refuse_faddr : s.refuse.faddr = s.faddr := rfl
@[simp] theorem State.refuse_params : s.refuse.params = s.params := rfl
@[simp] theorem State.refuse_input : s.refuse.input = s.input := rfl
@[simp] theorem State.refuse_response : s.refuse.response = some ⟨.refused, 0, false⟩ := rfl

/-! ### takeReset (R33, R260) -/

@[simp] theorem State.takeReset_mem (d : ResetDraw) : (s.takeReset d).mem = [] := rfl
@[simp] theorem State.takeReset_latch (d : ResetDraw) : (s.takeReset d).latch = d.latch := rfl
@[simp] theorem State.takeReset_latchValid (d : ResetDraw) : (s.takeReset d).latchValid = false := rfl
@[simp] theorem State.takeReset_seg (d : ResetDraw) : (s.takeReset d).seg = d.seg := rfl
@[simp] theorem State.takeReset_ip (d : ResetDraw) : (s.takeReset d).ip = d.ip := rfl
@[simp] theorem State.takeReset_pq (d : ResetDraw) : (s.takeReset d).pq = [] := rfl
@[simp] theorem State.takeReset_gpr (d : ResetDraw) : (s.takeReset d).gpr = d.gpr := rfl
@[simp] theorem State.takeReset_ptr (d : ResetDraw) : (s.takeReset d).ptr = d.ptr := rfl
@[simp] theorem State.takeReset_flags (d : ResetDraw) : (s.takeReset d).flags = d.flags := rfl
@[simp] theorem State.takeReset_faulted (d : ResetDraw) : (s.takeReset d).faulted = false := rfl
@[simp] theorem State.takeReset_fcause (d : ResetDraw) : (s.takeReset d).fcause = .noFault := rfl
@[simp] theorem State.takeReset_fcmd (d : ResetDraw) : (s.takeReset d).fcmd = 0 := rfl
@[simp] theorem State.takeReset_faddr (d : ResetDraw) : (s.takeReset d).faddr = 0 := rfl
@[simp] theorem State.takeReset_params (d : ResetDraw) : (s.takeReset d).params = s.params := rfl
@[simp] theorem State.takeReset_input (d : ResetDraw) : (s.takeReset d).input = s.input := rfl
@[simp] theorem State.takeReset_response (d : ResetDraw) : (s.takeReset d).response = none := rfl

/-! ### Register files: reading after writing -/

@[simp] theorem SegFile.get_set_same (f : SegFile) (r : SegReg) (v : Word) : (f.set r v).get r = v := by
  cases r <;> rfl

theorem SegFile.get_set_other (f : SegFile) {r r' : SegReg} (h : r' ≠ r) (v : Word) : (f.set r v).get r' = f.get r' := by
  cases r <;> cases r' <;> first | rfl | exact absurd rfl h

theorem SegFile.ext_get {f g : SegFile} (h : ∀ r, f.get r = g.get r) : f = g := by
  cases f; cases g
  simp only [SegFile.mk.injEq]
  exact ⟨h .es, h .cs, h .ss, h .ds⟩

@[simp] theorem GprFile.get_set_same (f : GprFile) (r : Gpr) (v : Word) : (f.set r v).get r = v := by
  cases r <;> rfl

theorem GprFile.get_set_other (f : GprFile) {r r' : Gpr} (h : r' ≠ r) (v : Word) : (f.set r v).get r' = f.get r' := by
  cases r <;> cases r' <;> first | rfl | exact absurd rfl h

theorem GprFile.ext_get {f g : GprFile} (h : ∀ r, f.get r = g.get r) : f = g := by
  cases f; cases g
  simp only [GprFile.mk.injEq]
  exact ⟨h .ax, h .bx, h .cx, h .dx⟩

@[simp] theorem PtrFile.get_set_same (f : PtrFile) (r : PtrReg) (v : Word) : (f.set r v).get r = v := by
  cases r <;> rfl

theorem PtrFile.get_set_other (f : PtrFile) {r r' : PtrReg} (h : r' ≠ r) (v : Word) : (f.set r v).get r' = f.get r' := by
  cases r <;> cases r' <;> first | rfl | exact absurd rfl h

theorem PtrFile.ext_get {f g : PtrFile} (h : ∀ r, f.get r = g.get r) : f = g := by
  cases f; cases g
  simp only [PtrFile.mk.injEq]
  exact ⟨h .sp, h .bp, h .si, h .di⟩

@[simp] theorem FlagBank.get_set_same (f : FlagBank) (r : Flag) (v : Bool) : (f.set r v).get r = v := by
  cases r <;> rfl

theorem FlagBank.get_set_other (f : FlagBank) {r r' : Flag} (h : r' ≠ r) (v : Bool) : (f.set r v).get r' = f.get r' := by
  cases r <;> cases r' <;> first | rfl | exact absurd rfl h

theorem FlagBank.ext_get {f g : FlagBank} (h : ∀ r, f.get r = g.get r) : f = g := by
  cases f; cases g
  simp only [FlagBank.mk.injEq]
  exact ⟨h .carry, h .parity, h .auxCarry, h .zero, h .sign, h .overflow, h .interruptEnable, h .direction, h .trap⟩

end Sys2Proof.Machine
end

