-- ==== Sys2Proof/Laws/Ops.lean ====
section
/-! SUPPORT. One lemma for each shared operation that says everything it can do. -/

namespace Sys2Proof.Machine

theorem answer_eq {n : Nat} (v : BitVec n) (s : State) : answer v s = .next (s.respond (v.setWidth 32) true) := rfl

theorem done_eq (s : State) : done s = .next (s.respond 0 false) := rfl

theorem raise_eq (w : CommandWord) (c : FaultCause) (a : BusAddr) (s : State) :
    raise w c a s = .next (s.takeFault w c a) := rfl

/-- A translation answers its address, and latches it exactly when `L = 1`. -/
theorem translate_eq (mode : AddrMode) (o l : Bool) (ovr off : Word) (s : State) :
    translate mode o l ovr off s =
      .next ((if l then s.latchAddress ((translatedAddress mode o ovr off s).setWidth 32) else s).respond
        ((translatedAddress mode o ovr off s).setWidth 32) true) := rfl

/-- Everything the target of a transfer can be: no address latched, out of range, or the latched address (R231, R232,
R237). -/
theorem transferTarget_cases (s : State) :
    (s.latchValid = false ∧ transferTarget s = .error (.noAddressLatched, 0)) ∨
    (s.latchValid = true ∧ addressSpaceSize ≤ s.latch.toNat ∧ transferTarget s = .error (.outOfRange, s.latch)) ∨
    (s.latchValid = true ∧ s.latch.toNat < addressSpaceSize ∧ transferTarget s = .ok s.latch.toNat) := by
  unfold transferTarget
  cases hv : s.latchValid with
  | false => exact .inl ⟨rfl, rfl⟩
  | true =>
    by_cases hr : addressSpaceSize ≤ s.latch.toNat
    · exact .inr (.inl ⟨rfl, hr, by rw [if_neg (by simp), if_pos hr]⟩)
    · exact .inr (.inr ⟨rfl, by omega, by rw [if_neg (by simp), if_neg hr]⟩)

theorem transferTarget_of_ok {s : State} {a : Nat} (h : transferTarget s = .ok a) :
    s.latchValid = true ∧ s.latch.toNat < addressSpaceSize ∧ a = s.latch.toNat := by
  rcases transferTarget_cases s with ⟨-, h'⟩ | ⟨-, -, h'⟩ | ⟨hv, hr, h'⟩ <;> rw [h'] at h <;> cases h
  exact ⟨hv, hr, rfl⟩

theorem transferTarget_of_error {s : State} {e : FaultCause × BusAddr} (h : transferTarget s = .error e) :
    (s.latchValid = false ∧ e = (.noAddressLatched, 0)) ∨
    (s.latchValid = true ∧ addressSpaceSize ≤ s.latch.toNat ∧ e = (.outOfRange, s.latch)) := by
  rcases transferTarget_cases s with ⟨hv, h'⟩ | ⟨hv, hr, h'⟩ | ⟨-, -, h'⟩ <;> rw [h'] at h <;> cases h
  · exact .inl ⟨hv, rfl⟩
  · exact .inr ⟨hv, hr, rfl⟩

theorem State.queueFull_eq_true {s : State} :
    s.queueFull = true ↔ ∃ n, s.params.pqCap = .bounded n ∧ s.pq.length = n := by
  unfold State.queueFull
  split
  · next h => simp [h]
  · next n h => simp [h, eq_comm]

/-- What `BUS_READ` can do. -/
theorem execBusRead_cases (s : State) :
    (∃ e, transferTarget s = .error e ∧ execBusRead s = .next (s.takeFault (encode .busRead) e.1 e.2)) ∨
    (∃ a, transferTarget s = .ok a ∧ execBusRead s = .next (s.respond ((s.mem.read a).setWidth 32) true)) := by
  unfold execBusRead
  split
  · next c a h => exact .inl ⟨(c, a), h, rfl⟩
  · next a h => exact .inr ⟨a, h, rfl⟩

/-- What `BUS_WRITE` can do. -/
theorem execBusWrite_cases (v : Byte) (s : State) :
    (∃ e, transferTarget s = .error e ∧ execBusWrite v s = .next (s.takeFault (encode (.busWrite v)) e.1 e.2)) ∨
    (∃ a, transferTarget s = .ok a ∧ execBusWrite v s = .next ((s.writeByte a v).respond 0 false)) := by
  unfold execBusWrite
  split
  · next c a h => exact .inl ⟨(c, a), h, rfl⟩
  · next a h => exact .inr ⟨a, h, rfl⟩

/-- What `PQ_PUSH` can do. -/
theorem execPqPush_cases (b : Byte) (s : State) :
    (s.queueFull = true ∧ execPqPush b s = .next (s.takeFault (encode (.pqPush b)) .queueOverflow 0)) ∨
    (s.queueFull = false ∧ execPqPush b s = .next ((s.setQueue (s.pq ++ [b])).respond 0 false)) := by
  unfold execPqPush
  split
  · next h => exact .inl ⟨h, rfl⟩
  · next h => exact .inr ⟨by simpa using h, rfl⟩

/-- What `PQ_POP` can do. -/
theorem execPqPop_cases (s : State) :
    (s.pq = [] ∧ execPqPop s = .next (s.respond 0 false)) ∨
    (∃ b rest, s.pq = b :: rest ∧ execPqPop s = .next ((s.setQueue rest).respond (b.setWidth 32) true)) := by
  unfold execPqPop
  split
  · next h => exact .inl ⟨h, rfl⟩
  · next b rest h => exact .inr ⟨b, rest, h, rfl⟩

end Sys2Proof.Machine
end

