-- ==== Sys2Proof/Laws/PerInstr.lean ====
section
/-! SUPPORT. Statements proved instruction by instruction: the fields the encoder writes are a legal word's (R85). -/

namespace Sys2Proof.Laws.EncodingLegal

/-- R85: the fields of the instruction's word are legal. -/
def Statement (i : Instr) : Prop := (encodeFields i).legal = true

/-- An operand of `n` bits, zero-extended, is below `2 ^ n`: its row's `imm` check. -/
theorem imm_fits {n : Nat} (v : BitVec n) (hn : n ≤ 32) : (v.setWidth 32).toNat < 2 ^ n := by
  have h := Nat.pow_le_pow_right (n := 2) (by omega) hn
  have hv := v.isLt
  rw [BitVec.toNat_setWidth, Nat.mod_eq_of_lt (by omega)]
  exact hv

theorem busLatch (addr : BusAddr) : Statement (.busLatch addr) := by
  simp [Statement, encodeFields, Fields.legal, fieldRule, FieldRule.admits, addr.isLt]

theorem busRead : Statement .busRead := rfl

theorem busWrite (v : Byte) : Statement (.busWrite v) := by
  have h := imm_fits v (by decide)
  simpa [Statement, encodeFields, Fields.legal, fieldRule, FieldRule.admits] using h

theorem xlatFetch (o l : Bool) (ovr : Word) : Statement (.xlatFetch o l ovr) := by
  simp [Statement, encodeFields, Fields.legal, fieldRule, FieldRule.admits]

theorem xlatStack (o l : Bool) (ovr off : Word) : Statement (.xlatStack o l ovr off) := by
  have h := imm_fits off (by decide)
  simpa [Statement, encodeFields, Fields.legal, fieldRule, FieldRule.admits] using h

theorem xlatStrSrc (o l : Bool) (ovr off : Word) : Statement (.xlatStrSrc o l ovr off) := by
  have h := imm_fits off (by decide)
  simpa [Statement, encodeFields, Fields.legal, fieldRule, FieldRule.admits] using h

theorem xlatStrDst (o l : Bool) (ovr off : Word) : Statement (.xlatStrDst o l ovr off) := by
  have h := imm_fits off (by decide)
  simpa [Statement, encodeFields, Fields.legal, fieldRule, FieldRule.admits] using h

theorem xlatData (o l : Bool) (ovr off : Word) : Statement (.xlatData o l ovr off) := by
  have h := imm_fits off (by decide)
  simpa [Statement, encodeFields, Fields.legal, fieldRule, FieldRule.admits] using h

theorem xlatBpData (o l : Bool) (ovr off : Word) : Statement (.xlatBpData o l ovr off) := by
  have h := imm_fits off (by decide)
  simpa [Statement, encodeFields, Fields.legal, fieldRule, FieldRule.admits] using h

theorem segRead (r : SegReg) : Statement (.segRead r) := by
  cases r <;> rfl

theorem segWrite (r : SegReg) (v : Word) : Statement (.segWrite r v) := by
  have h := imm_fits v (by decide)
  cases r <;> simpa [Statement, encodeFields, Fields.legal, fieldRule, FieldRule.admits, SegReg.code] using h

theorem ipRead : Statement .ipRead := rfl

theorem ipWrite (v : Word) : Statement (.ipWrite v) := by
  have h := imm_fits v (by decide)
  simpa [Statement, encodeFields, Fields.legal, fieldRule, FieldRule.admits] using h

theorem pqPush (b : Byte) : Statement (.pqPush b) := by
  have h := imm_fits b (by decide)
  simpa [Statement, encodeFields, Fields.legal, fieldRule, FieldRule.admits] using h

theorem pqPop : Statement .pqPop := rfl

theorem regRead (r : Gpr) : Statement (.regRead r) := by
  cases r <;> rfl

theorem regWrite (r : Gpr) (v : Word) : Statement (.regWrite r v) := by
  have h := imm_fits v (by decide)
  cases r <;> simpa [Statement, encodeFields, Fields.legal, fieldRule, FieldRule.admits, Gpr.code] using h

theorem regReadLo (r : Gpr) : Statement (.regReadLo r) := by
  cases r <;> rfl

theorem regReadHi (r : Gpr) : Statement (.regReadHi r) := by
  cases r <;> rfl

theorem regWriteLo (r : Gpr) (b : Byte) : Statement (.regWriteLo r b) := by
  have h := imm_fits b (by decide)
  cases r <;> simpa [Statement, encodeFields, Fields.legal, fieldRule, FieldRule.admits, Gpr.code] using h

theorem regWriteHi (r : Gpr) (b : Byte) : Statement (.regWriteHi r b) := by
  have h := imm_fits b (by decide)
  cases r <;> simpa [Statement, encodeFields, Fields.legal, fieldRule, FieldRule.admits, Gpr.code] using h

theorem ptrRead (p : PtrReg) : Statement (.ptrRead p) := by
  cases p <;> rfl

theorem ptrWrite (p : PtrReg) (v : Word) : Statement (.ptrWrite p v) := by
  have h := imm_fits v (by decide)
  cases p <;> simpa [Statement, encodeFields, Fields.legal, fieldRule, FieldRule.admits, PtrReg.code] using h

theorem flagRead (f : Flag) : Statement (.flagRead f) := by
  cases f <;> rfl

theorem flagWrite (f : Flag) (x : Bool) : Statement (.flagWrite f x) := by
  have h := imm_fits (BitVec.ofBool x) (by decide)
  cases f <;> simpa [Statement, encodeFields, Fields.legal, fieldRule, FieldRule.admits, Flag.code] using h

end Sys2Proof.Laws.EncodingLegal
end

