-- ==== Sys2Proof/Laws/Step.lean ====
section
/-! SUPPORT. Everything a command and a step can do, said once. -/

namespace Sys2Proof.Machine

/-- Everything the rule of a command can do: take a fault with its own word (R233), which only a transfer without a
target and a push into a full queue do (R230), or answer `OK` after an effect that leaves the fault status, the
parameters and the inputs alone. -/
theorem exec_cases (i : Instr) (s : State) :
    (∃ c a, c ≠ .noFault ∧
      ((i.isTransfer = true ∧ transferTarget s = .error (c, a)) ∨
        ∃ b, i = .pqPush b ∧ s.queueFull = true ∧ c = .queueOverflow ∧ a = 0) ∧
      exec i s = .next (s.takeFault (encode i) c a)) ∨
    (∃ (t : State) (d : BitVec 32) (v : Bool), exec i s = .next (t.respond d v) ∧
      (i.isTransfer = true → ∃ a, transferTarget s = .ok a) ∧ (∀ b, i = .pqPush b → s.queueFull = false) ∧
      (v = false → d = 0) ∧ t.faulted = s.faulted ∧ t.fcause = s.fcause ∧ t.fcmd = s.fcmd ∧ t.faddr = s.faddr ∧
      t.params = s.params ∧ t.input = s.input) := by
  cases i
  case busRead =>
    rcases execBusRead_cases s with ⟨e, he, h⟩ | ⟨a, he, h⟩
    · exact .inl ⟨e.1, e.2, by rcases transferTarget_of_error he with ⟨-, rfl⟩ | ⟨-, -, rfl⟩ <;> simp,
        .inl ⟨rfl, he⟩, h⟩
    · exact .inr ⟨_, _, _, h, fun _ => ⟨a, he⟩, by simp⟩
  case busWrite v =>
    rcases execBusWrite_cases v s with ⟨e, he, h⟩ | ⟨a, he, h⟩
    · exact .inl ⟨e.1, e.2, by rcases transferTarget_of_error he with ⟨-, rfl⟩ | ⟨-, -, rfl⟩ <;> simp,
        .inl ⟨rfl, he⟩, h⟩
    · exact .inr ⟨_, _, _, h, fun _ => ⟨a, he⟩, by simp⟩
  case pqPush b =>
    rcases execPqPush_cases b s with ⟨hq, h⟩ | ⟨hq, h⟩
    · exact .inl ⟨_, _, by simp, .inr ⟨b, rfl, hq, rfl, rfl⟩, h⟩
    · exact .inr ⟨_, _, _, h, by simp [Instr.isTransfer], fun _ _ => hq, by simp⟩
  case pqPop =>
    rcases execPqPop_cases s with ⟨-, h⟩ | ⟨b, rest, -, h⟩
    · exact .inr ⟨_, _, _, h, by simp [Instr.isTransfer]⟩
    · exact .inr ⟨_, _, _, h, by simp [Instr.isTransfer]⟩
  case xlatFetch o l ovr => exact .inr ⟨_, _, _, rfl, by cases l <;> simp [Instr.isTransfer]⟩
  case xlatStack o l ovr off => exact .inr ⟨_, _, _, rfl, by cases l <;> simp [Instr.isTransfer]⟩
  case xlatStrSrc o l ovr off => exact .inr ⟨_, _, _, rfl, by cases l <;> simp [Instr.isTransfer]⟩
  case xlatStrDst o l ovr off => exact .inr ⟨_, _, _, rfl, by cases l <;> simp [Instr.isTransfer]⟩
  case xlatData o l ovr off => exact .inr ⟨_, _, _, rfl, by cases l <;> simp [Instr.isTransfer]⟩
  case xlatBpData o l ovr off => exact .inr ⟨_, _, _, rfl, by cases l <;> simp [Instr.isTransfer]⟩
  all_goals exact .inr ⟨_, _, _, rfl, by simp [Instr.isTransfer]⟩

/-- The rule of a command has a next state. -/
theorem exec_next (i : Instr) (s : State) : ∃ t, exec i s = .next t := by
  rcases exec_cases i s with ⟨c, a, -, -, h⟩ | ⟨t, d, v, h, -⟩ <;> exact ⟨_, h⟩

/-- Everything a command word can do (R80). -/
theorem runCommand_cases (w : CommandWord) (s : State) :
    (s.faulted = true ∧ runCommand w s = .next s.refuse) ∨
    (∃ e, s.faulted = false ∧ decode w = .error e ∧ runCommand w s = .next (s.takeFault w .illegalCommand 0)) ∨
    (∃ i, s.faulted = false ∧ decode w = .ok i ∧ runCommand w s = exec i s) := by
  unfold runCommand
  split
  · next h => exact .inl ⟨h, rfl⟩
  · next h =>
    have h : s.faulted = false := by simpa using h
    split
    · next e he => exact .inr (.inl ⟨e, h, he, rfl⟩)
    · next i hi => exact .inr (.inr ⟨i, h, hi, rfl⟩)

theorem step_of_empty {s : State} (h : s.input = []) : step s = .next s := by
  simp only [step, h]

/-- A step serves the oldest input, with the later ones left. -/
theorem step_of_input {s : State} {x : Input} {rest : List Input} (h : s.input = x :: rest) :
    step s = serve x (s.setInput rest) := by
  simp only [step, h]

theorem step_of_reset {s : State} {d : ResetDraw} {rest : List Input} (h : s.input = .reset d :: rest) :
    step s = .next ((s.setInput rest).takeReset d) :=
  step_of_input h

theorem step_of_command {s : State} {w : CommandWord} {rest : List Input} (h : s.input = .command w :: rest) :
    step s = runCommand w (s.setInput rest) :=
  step_of_input h

/-- Everything a step can do: nothing, a reset, a refusal, an illegal word, or the rule of a command. -/
theorem step_cases (s : State) :
    (s.input = [] ∧ step s = .next s) ∨
    (∃ d rest, s.input = .reset d :: rest ∧ step s = .next ((s.setInput rest).takeReset d)) ∨
    (∃ w rest, s.input = .command w :: rest ∧ s.faulted = true ∧ step s = .next (s.setInput rest).refuse) ∨
    (∃ w rest e, s.input = .command w :: rest ∧ s.faulted = false ∧ decode w = .error e ∧
      step s = .next ((s.setInput rest).takeFault w .illegalCommand 0)) ∨
    (∃ w rest i, s.input = .command w :: rest ∧ s.faulted = false ∧ decode w = .ok i ∧
      step s = exec i (s.setInput rest)) := by
  rcases hs : s.input with _ | ⟨x, rest⟩
  · exact .inl ⟨rfl, step_of_empty hs⟩
  cases x with
  | reset d => exact .inr (.inl ⟨d, rest, rfl, step_of_reset hs⟩)
  | command w =>
    have hstep := step_of_command hs
    rcases runCommand_cases w (s.setInput rest) with ⟨hf, h⟩ | ⟨e, hf, hd, h⟩ | ⟨i, hf, hd, h⟩
    · exact .inr (.inr (.inl ⟨w, rest, rfl, hf, hstep.trans h⟩))
    · exact .inr (.inr (.inr (.inl ⟨w, rest, e, rfl, hf, hd, hstep.trans h⟩)))
    · exact .inr (.inr (.inr (.inr ⟨w, rest, i, rfl, hf, hd, hstep.trans h⟩)))

/-- What the rule of a command can change, field by field, and how. -/
theorem exec_effects {i : Instr} {s t : State} (h : exec i s = .next t) :
    (t.mem = s.mem ∨ ∃ v a, i = .busWrite v ∧ transferTarget s = .ok a ∧ t.mem = s.mem.write a v) ∧
    ((t.latch = s.latch ∧ t.latchValid = s.latchValid) ∨
      (t.latchValid = true ∧ ((∃ a, i = .busLatch a) ∨ ∃ mode o ovr off, i = .xlat mode o true ovr off))) ∧
    (t.seg = s.seg ∨ ∃ r v, i = .segWrite r v ∧ t.seg = s.seg.set r v) ∧
    (t.ip = s.ip ∨ ∃ v, i = .ipWrite v ∧ t.ip = v) ∧
    (t.pq = s.pq ∨ (∃ b, i = .pqPush b ∧ s.queueFull = false ∧ t.pq = s.pq ++ [b]) ∨
      ∃ b, i = .pqPop ∧ s.pq = b :: t.pq) ∧
    (t.gpr = s.gpr ∨ ∃ r v, (i = .regWrite r v ∨ (∃ b, i = .regWriteLo r b) ∨ (∃ b, i = .regWriteHi r b)) ∧
      t.gpr = s.gpr.set r v) ∧
    (t.ptr = s.ptr ∨ ∃ p v, i = .ptrWrite p v ∧ t.ptr = s.ptr.set p v) ∧
    (t.flags = s.flags ∨ ∃ f x, i = .flagWrite f x ∧ t.flags = s.flags.set f x) := by
  cases i
  case busRead =>
    rcases execBusRead_cases s with ⟨e, he, h'⟩ | ⟨a, he, h'⟩ <;> rw [exec, h'] at h <;> cases h <;> simp
  case busWrite v =>
    rcases execBusWrite_cases v s with ⟨e, he, h'⟩ | ⟨a, he, h'⟩ <;> rw [exec, h'] at h <;> cases h
    · simp
    · exact ⟨.inr ⟨v, a, rfl, he, rfl⟩, by simp⟩
  case pqPush b =>
    rcases execPqPush_cases b s with ⟨he, h'⟩ | ⟨he, h'⟩ <;> rw [exec, h'] at h <;> cases h
    · simp
    · simp [he]
  case pqPop =>
    rcases execPqPop_cases s with ⟨-, h'⟩ | ⟨b, q, he, h'⟩ <;> rw [exec, h'] at h <;> cases h
    · simp
    · simp [he]
  case flagWrite f x =>
    cases h
    exact ⟨by simp, by simp, by simp, by simp, by simp, by simp, by simp, .inr ⟨f, x, rfl, rfl⟩⟩
  case xlatFetch o l ovr =>
    cases h; cases l
    · simp
    · exact ⟨by simp, .inr ⟨rfl, .inr ⟨.fetch, o, ovr, 0, rfl⟩⟩, by simp⟩
  case xlatStack o l ovr off =>
    cases h; cases l
    · simp
    · exact ⟨by simp, .inr ⟨rfl, .inr ⟨.stack, o, ovr, off, rfl⟩⟩, by simp⟩
  case xlatStrSrc o l ovr off =>
    cases h; cases l
    · simp
    · exact ⟨by simp, .inr ⟨rfl, .inr ⟨.strSrc, o, ovr, off, rfl⟩⟩, by simp⟩
  case xlatStrDst o l ovr off =>
    cases h; cases l
    · simp
    · exact ⟨by simp, .inr ⟨rfl, .inr ⟨.strDst, o, ovr, off, rfl⟩⟩, by simp⟩
  case xlatData o l ovr off =>
    cases h; cases l
    · simp
    · exact ⟨by simp, .inr ⟨rfl, .inr ⟨.data, o, ovr, off, rfl⟩⟩, by simp⟩
  case xlatBpData o l ovr off =>
    cases h; cases l
    · simp
    · exact ⟨by simp, .inr ⟨rfl, .inr ⟨.bpData, o, ovr, off, rfl⟩⟩, by simp⟩
  all_goals cases h; simp

/-! ### Runs -/

/-- A run goes on from the state after its first step. -/
theorem run_of_step {k : Nat} {s t : State} (h : step s = .next t) :
    Host.Core.run Sys2Proof.core (k + 1) s = Host.Core.run Sys2Proof.core k t := by
  have h : Sys2Proof.core.step s = .next t := h
  simp only [Host.Core.run, h]

end Sys2Proof.Machine
end

