-- ==== Sys2Proof/Tests/Slice0.lean ====
section
/-! SUPPORT. Tests whose words and answers are those of `95_test_vectors.md` (§n below is a section of it) or of a rule's
own example, each about one step; and for every statement with hypotheses a witness that meets them, at the boundary of
each clause. -/

namespace Sys2Proof.Tests

open Sys2Proof.Machine

/-! ### Helpers -/

/-- The start of §2.4. -/
def base : State :=
  { State.reset with seg := { es := 0x4000, cs := 0x1005, ss := 0x2000, ds := 0x3000 }, ip := 0x5555 }

/-- `base` with an address latched. -/
def latched (a : BusAddr) : State := { base with latch := a, latchValid := true }

/-- `base` with a bounded queue. -/
def queued (cap : Nat) (q : List Byte) : State :=
  { base with params := { pqCap := .bounded cap, cpuMode := .minimum }, pq := q }

/-- The start of the priority vector of §2.6: faulted by BUS_READ at 0x100000. -/
def stopped : State := (latched 0x100000).takeFault 0x0800000000000000 .outOfRange 0x100000

def stateOf : Result → Option State
  | .next t => some t
  | _ => none

/-- The response of a next state. -/
def responseOf (r : Result) : Option Response := (stateOf r).bind fun t => t.response

/-- What a word means. -/
def meaning (w : CommandWord) : Option Instr := (decode w).toOption

def ofBits (w : CommandWord) (s : State) : State := { s with input := [.command w] }

/-! ### Well-formedness: one ill-formed word of §2.6 for each check of R85 -/

def illFormed (w : CommandWord) : Bool := !(Fields.ofWord w).legal && (meaning w).isNone

theorem test_illformed_opcode :
    illFormed 0x0000000000000000 = true ∧ illFormed 0xFC00000000000000 = true ∧
      illFormed 0x1000000000000000 = true := by decide

theorem test_illformed_reserved : illFormed 0x0801000000000000 = true := by decide

theorem test_illformed_selector :
    illFormed 0x8240000000000000 = true ∧ illFormed 0x4100000000000000 = true ∧
      illFormed 0x3040000000000000 = true ∧ illFormed 0x4C40000000000005 = true := by decide

theorem test_illformed_immediate :
    illFormed 0x8400000000000002 = true ∧ illFormed 0x7000000000000100 = true ∧
      illFormed 0x0C000000000001FF = true ∧ illFormed 0x2000000000000001 = true ∧
      illFormed 0x3000000000010000 = true ∧ illFormed 0x5400000000000001 = true := by decide

theorem test_illformed_latch_bit : illFormed 0x0410000000000000 = true := by decide

theorem test_illformed_override_value : illFormed 0x4400000100000000 = true := by decide

/-- R85: `O` must be 0 outside the translation commands. -/
theorem test_illformed_override_bit : illFormed 0x0820000000000000 = true := by decide

/-- The corner words of §2.7 are legal. -/
theorem test_legal_corners :
    [0x2020FFFF00000000, 0x3000FFFF00000000, 0x8600000000000000, 0x74C00000000000FF].map meaning
      = [some (.xlatFetch true false 0xFFFF), some (.xlatData false false 0xFFFF 0), some (.flagWrite .trap false),
         some (.regWriteHi .dx 0xFF)] := by decide

/-! ### Decoding: a word of every row -/

theorem test_decode_bus :
    [0x04000000000FFFFF, 0x0800000000000000, 0x0C0000000000005A].map meaning
      = [some (.busLatch 0xFFFFF), some .busRead, some (.busWrite 0x5A)] := by decide

theorem test_decode_xlat :
    [0x2020000000000000, 0x2420100000000300, 0x2830401000000100, 0x2C20100000000500, 0x3010000000001234,
      0x3420300000000010].map meaning
      = [some (.xlatFetch true false 0), some (.xlatStack true false 0x1000 0x0300),
         some (.xlatStrSrc true true 0x4010 0x0100), some (.xlatStrDst true false 0x1000 0x0500),
         some (.xlatData false true 0 0x1234), some (.xlatBpData true false 0x3000 0x0010)] := by decide

theorem test_decode_biu :
    [0x4080000000000000, 0x444000000000FFFF, 0x4800000000000000, 0x4C0000000000FFFF, 0x5000000000000022,
      0x5400000000000000].map meaning
      = [some (.segRead .ss), some (.segWrite .cs 0xFFFF), some .ipRead, some (.ipWrite 0xFFFF), some (.pqPush 0x22),
         some .pqPop] := by decide

theorem test_decode_registers :
    [0x6040000000000000, 0x6440000000001234, 0x6880000000000000, 0x6C80000000000000, 0x70C00000000000FF,
      0x74C00000000000AB, 0x78C0000000000000, 0x7C40000000001234].map meaning
      = [some (.regRead .bx), some (.regWrite .bx 0x1234), some (.regReadLo .cx), some (.regReadHi .cx),
         some (.regWriteLo .dx 0xFF), some (.regWriteHi .dx 0xAB), some (.ptrRead .di),
         some (.ptrWrite .bp 0x1234)] := by decide

theorem test_decode_flags :
    [0x80C0000000000000, 0x8600000000000001].map meaning
      = [some (.flagRead .zero), some (.flagWrite .trap true)] := by decide

/-- R81, R83: `XLAT_STRSRC 0x0400, ovr=0x1000, latch` written field by field. -/
theorem test_decode_field_by_field :
    meaning (0x0A#6 ++ 0#4 ++ 1#1 ++ 1#1 ++ 0#4 ++ 0x1000#16 ++ 0x00000400#32)
      = some (.xlatStrSrc true true 0x1000 0x0400) := by decide

/-- No two rows of the opcode table overlap. -/
theorem test_opcode_rows_apart :
    opcodeTable.Pairwise fun r r' => r.pattern &&& r.mask &&& r'.mask ≠ r'.pattern &&& r.mask &&& r'.mask := by decide

theorem test_decode_table_word :
    decodeTableWord 64 0x2820100000000400 = some (.xlatStrSrc true false 0x1000 0x0400) ∧
      decodeTableWord 64 0 = none := by decide

/-- From reset, the word put at the front of the inputs is the first command the block runs. -/
theorem test_first_command_from_reset :
    step (State.reset.withFetchWord 64 0x4C00000000005555)
      = .next { State.reset with ip := 0x5555, response := some .written } := rfl

/-! ### One step of each command -/

/-- §2.1, row 12: the largest address is latched. -/
theorem test_bus_latch :
    exec (.busLatch 0xFFFFFFFF) base
      = .next { base with latch := 0xFFFFFFFF, latchValid := true, response := some .written } := rfl

/-- R111's example. -/
theorem test_bus_read :
    responseOf (exec .busRead { latched 0x20300 with mem := [(0x20300, 0x7E)] })
      = some { st := .ok, rdata := 0x7E, rvalid := true } := by decide

/-- §2.1, rows 7 to 11: a write to the last byte leaves byte 0 alone. -/
theorem test_bus_write :
    exec (.busWrite 0xFF) { latched 0xFFFFF with mem := [(0, 0x5A)] }
      = .next { latched 0xFFFFF with mem := [(0, 0x5A), (0xFFFFF, 0xFF)], response := some .written } := rfl

/-- R112: writing 0x00 is an ordinary write; the canonical form lists no zero byte. -/
theorem test_bus_write_zero :
    exec (.busWrite 0) { latched 0x300 with mem := [(0x300, 0x5A), (0x301, 1)] }
      = .next { latched 0x300 with mem := [(0x301, 1)], response := some .written } := rfl

/-- §2.4, rows 2 and 8 to 13: each mode, with an override and without. -/
theorem test_xlat :
    [exec (.xlatFetch true false 0) base, exec (.xlatStack true false 0x1000 0x0300) base,
      exec (.xlatStrSrc true false 0x1000 0x0400) base, exec (.xlatStrDst true false 0x1000 0x0500) base,
      exec (.xlatData true false 0 0xFFFF) base, exec (.xlatBpData false false 0 0x0010) base,
      exec (.xlatStrSrc false false 0x1000 0x0400) base].map responseOf
      = [0x155A5, 0x20300, 0x10400, 0x40500, 0xFFFF, 0x20010, 0x30400].map fun a =>
          some { st := .ok, rdata := a, rvalid := true } := by decide

/-- §2.4, row 14: only the latch changes. -/
theorem test_xlat_latches :
    exec (.xlatData false true 0 0x1234) base
      = .next { base with
          latch := 0x31234, latchValid := true
          response := some { st := .ok, rdata := 0x31234, rvalid := true } } := rfl

/-- §2.4, range corners, rows 1 and 2: 21 bits, never wrapped. -/
theorem test_xlat_range :
    physicalAddress 0xFFFF 0xFFFF = 0x10FFEF ∧ physicalAddress 0xFFFF 0x0010 = 0x100000 ∧
      physicalAddress 0xFFFF 0x000F = 0xFFFFF := by decide

/-- §2.4b: three pairs, one address. -/
theorem test_xlat_alias :
    physicalAddress 0x1000 0x0010 = 0x10010 ∧ physicalAddress 0x0FFF 0x0020 = 0x10010 ∧
      physicalAddress 0x0002 0xFFF0 = 0x10010 := by decide

/-- §2.5, rows 2 and 6. -/
theorem test_segments :
    exec (.segWrite .cs 0xFFFF) base
      = .next { base with
          seg := { es := 0x4000, cs := 0xFFFF, ss := 0x2000, ds := 0x3000 }, response := some .written } ∧
    responseOf (exec (.segRead .cs) base) = some { st := .ok, rdata := 0x1005, rvalid := true } :=
  ⟨rfl, by decide⟩

/-- R203's example; the queue is not flushed by R204. -/
theorem test_ip :
    responseOf (exec .ipRead base) = some { st := .ok, rdata := 0x5555, rvalid := true } ∧
    exec (.ipWrite 0xFFFF) (queued 2 [0x11])
      = .next { queued 2 [0x11] with ip := 0xFFFF, response := some .written } :=
  ⟨by decide, rfl⟩

/-- §2.5, rows 17 and 18: in at the tail, out at the head. -/
theorem test_queue :
    exec (.pqPush 0x44) { base with pq := [0x22, 0x33] }
      = .next { base with pq := [0x22, 0x33, 0x44], response := some .written } ∧
    exec .pqPop { base with pq := [0x22, 0x33, 0x44] }
      = .next { base with pq := [0x33, 0x44], response := some { st := .ok, rdata := 0x22, rvalid := true } } :=
  ⟨rfl, rfl⟩

/-- §2.5, `PQ_CAP = 2`, row 3. -/
theorem test_queue_overflow :
    step (ofBits 0x50000000000000CC (queued 2 [0xAA, 0xBB]))
      = .next { queued 2 [0xAA, 0xBB] with
          faulted := true, fcause := .queueOverflow, fcmd := 0x50000000000000CC
          response := some .faulting } := rfl

/-- §2.2, rows 1 to 9, on AX and its bytes. -/
theorem test_registers :
    [exec (.regRead .ax), exec (.regReadLo .ax), exec (.regReadHi .ax), exec (.regRead .bx)].map
        (fun f => responseOf (f { base with gpr := { ax := 0xBEEF, bx := 0, cx := 0, dx := 0 } }))
      = [0xBEEF, 0xEF, 0xBE, 0].map fun v => some { st := .ok, rdata := v, rvalid := true } := by decide

/-- The examples of R132, R135 and R136. -/
theorem test_register_writes :
    [exec (.regWrite .bx 0x1234), exec (.regWriteLo .dx 0xFF), exec (.regWriteHi .dx 0xAB)].map
        (fun f => (stateOf (f { base with gpr := { ax := 1, bx := 2, cx := 3, dx := 0x1234 } })).map State.gpr)
      = [some { ax := 1, bx := 0x1234, cx := 3, dx := 0x1234 }, some { ax := 1, bx := 2, cx := 3, dx := 0x12FF },
         some { ax := 1, bx := 2, cx := 3, dx := 0xAB34 }] := by decide

/-- §2.2, rows 18 and 23. -/
theorem test_pointers :
    exec (.ptrWrite .si 0x0001) base
      = .next { base with ptr := { sp := 0, bp := 0, si := 1, di := 0 }, response := some .written } ∧
    responseOf (exec (.ptrRead .di) { base with ptr := { sp := 1, bp := 2, si := 3, di := 0x8000 } })
      = some { st := .ok, rdata := 0x8000, rvalid := true } :=
  ⟨rfl, by decide⟩

/-- §2.3, rows 2, 3 and 4. -/
theorem test_flags :
    (stateOf (exec (.flagWrite .trap true) base)).map State.flags
      = some { base.flags with trap := true } ∧
    [exec (.flagRead .carry), exec (.flagRead .parity)].map
        (fun f => responseOf (f { base with flags := { base.flags with carry := true } }))
      = [1, 0].map fun v => some { st := .ok, rdata := v, rvalid := true } := by decide

/-! ### Faults, refusal and reset -/

/-- §2.1: a transfer before any latch. -/
theorem test_fault_no_address :
    step (ofBits 0x0800000000000000 base)
      = .next { base with
          faulted := true, fcause := .noAddressLatched, fcmd := 0x0800000000000000
          response := some .faulting } := rfl

/-- §2.1: the first address out of range; byte 0 is not written. -/
theorem test_fault_out_of_range :
    step (ofBits 0x0C00000000000001 (latched 0x100000))
      = .next { latched 0x100000 with
          faulted := true, fcause := .outOfRange, fcmd := 0x0C00000000000001, faddr := 0x100000
          response := some .faulting } := rfl

/-- §2.6, priority: ILLEGAL_COMMAND outranks NO_ADDRESS_LATCHED and QUEUE_OVERFLOW. -/
theorem test_fault_priority :
    [runCommand 0x0800000000000001 State.reset, runCommand 0x5000000000000100 (queued 1 [0xAA])].map
        (fun r => (stateOf r).map State.fcause)
      = [some .illegalCommand, some .illegalCommand] := by decide

/-- §2.6: a refused command records nothing, an illegal one neither. -/
theorem test_refused :
    step (ofBits 0 stopped) = .next { stopped with response := some .refusing } := rfl

/-- §2.6, after reset: the new draw's `IP`, no fault, memory and queue empty, and the parameters as they were. -/
theorem test_reset :
    step { stopped with
        mem := [(3, 4)], pq := [1], params := { pqCap := .bounded 2, cpuMode := .maximum }
        input := [.reset { ResetDraw.zero with ip := 0x1234 }] }
      = .next { State.reset with ip := 0x1234, params := { pqCap := .bounded 2, cpuMode := .maximum } } := rfl

/-! ### Assembler -/

theorem test_assemble :
    ["BUS_LATCH 0x155A5", "XLAT_STRSRC 0x0400, ovr=0x1000, latch", "XLAT_FETCH, latch", "REG_WRITE_LO AL, 18",
      "FLAG_WRITE TF, 1"].map assembleText?
      = [some [.busLatch 0x155A5], some [.xlatStrSrc true true 0x1000 0x0400], some [.xlatFetch false true 0],
         some [.regWriteLo .ax 0x12], some [.flagWrite .trap true]] := by decide

/-- R93: no value is truncated; R92: a decimal number has decimal digits only. -/
theorem test_assemble_rejects :
    ["REG_WRITE_LO AL, 0x100", "BUS_LATCH 0x100000000", "FLAG_WRITE CF, 2", "PTR_READ AX", "PQ_PUSH 1A"].map assembleText?
      = [none, none, none, none, none] := by decide

/-- Program P4, rows 16 to 19: the second byte wraps in the segment. -/
theorem test_pseudo_stw :
    assembleText? "STW DATA, 0xFFFF, 0x1234"
      = some [.xlatData false true 0 0xFFFF, .busWrite 0x34, .xlatData false true 0 0, .busWrite 0x12] := by decide

/-! ### Witnesses: for each statement with hypotheses, a state and operands that meet them -/

theorem witness_EncodeDecode : decode 0x80C0000000000000 = .ok (.flagRead .zero) := rfl

theorem witness_LegalWordsExactly :
    State.reset.faulted = false ∧ (Fields.ofWord 0x8240000000000000).legal = false := by decide

theorem witness_OpcodeTableRows :
    ⟨"FLAG_WRITE", 0x8400000000000000, 0xFC3FFFFFFFFFFFFE, 8⟩ ∈ opcodeTable := by decide

/-- The three clauses meet at 0xFFFFF and 0x100000, and exclude each other. -/
theorem witness_BusReadAnswersLatchedByte :
    base.latchValid = false ∧
    ((latched 0x100000).latchValid = true ∧ 0x100000 ≤ (latched 0x100000).latch.toNat) ∧
    ((latched 0xFFFFF).latchValid = true ∧ (latched 0xFFFFF).latch.toNat < 0x100000) := by decide

theorem witness_BusWriteWritesLatchedByte :
    base.latchValid = false ∧
    ((latched 0x100000).latchValid = true ∧ 0x100000 ≤ (latched 0x100000).latch.toNat) ∧
    ((latched 0xFFFFF).latchValid = true ∧ (latched 0xFFFFF).latch.toNat < 0x100000 ∧
      (latched 0xFFFFF).mem.wf = true) := by decide

theorem witness_MemoryFormIsCanonical :
    Memory.wf [(0, 1), (0xFFFFF, 2)] = true ∧
      ∀ a, Memory.read [(0, 1), (0xFFFFF, 2)] a = Memory.read [(0, 1), (0xFFFFF, 2)] a :=
  ⟨by decide, fun _ => rfl⟩

/-- At the first and the last address. -/
theorem witness_LatchWriteReadRoundTrip :
    ∀ a ∈ [(0 : BusAddr), 0xFFFFF],
      let s := { State.reset with input := commands [.busLatch a, .busWrite 0xFF, .busRead] ++ [] }
      s.faulted = false ∧ s.mem.wf = true ∧ a.toNat < addressSpaceSize ∧
        s.input = commands [.busLatch a, .busWrite 0xFF, .busRead] ++ [] := by
  intro a ha
  refine ⟨rfl, rfl, ?_, rfl⟩
  obtain rfl | rfl : a = 0 ∨ a = 0xFFFFF := by simpa using ha
  all_goals decide

/-- The second and third clauses at 0xF000 and 0xF001, the fourth at 1000:0010 and 0002:FFF0. -/
theorem witness_TranslationLaws :
    (0xF000 : Word).toNat ≤ 0xF000 ∧
    (0xF001 ≤ (0xF001 : Word).toNat ∧ 0x100000 - (0xF001 : Word).toNat * 16 ≤ (0xFFF0 : Word).toNat) ∧
    ((0x0002 : Word).toNat + 0xFFE = (0x1000 : Word).toNat ∧
      (0xFFF0 : Word).toNat = (0x0010 : Word).toNat + 16 * 0xFFE) := by decide

theorem witness_OverrideIsNotStored :
    (AddrMode.bpData = .strSrc ∨ AddrMode.bpData = .data ∨ AddrMode.bpData = .bpData) ∧
      (AddrMode.strSrc = .strSrc ∨ AddrMode.strSrc = .data ∨ AddrMode.strSrc = .bpData) := by decide

/-- Two states that agree in segments and `IP` only. -/
theorem witness_TranslationReadsOnlySegmentsAndIp :
    base.seg = (queued 2 [0x11]).seg ∧ base.ip = (queued 2 [0x11]).ip ∧ base ≠ queued 2 [0x11] := by decide

/-- A full bounded queue of 1 and of 2; room in an unbounded queue, and in one with one byte missing. -/
theorem witness_PushAppendsAtTail :
    ((queued 1 [0xAA]).params.pqCap = .bounded 1 ∧ (queued 1 [0xAA]).pq.length = 1) ∧
    ((queued 2 [0xAA, 0xBB]).params.pqCap = .bounded 2 ∧ (queued 2 [0xAA, 0xBB]).pq.length = 2) ∧
    base.params.pqCap = .unbounded ∧
    ((queued 2 [0xAA]).params.pqCap = .bounded 2 ∧ (queued 2 [0xAA]).pq.length ≠ 2) := by decide

theorem witness_PopTakesOldest : base.pq = [] ∧ (queued 1 [0xAA]).pq = 0xAA :: [] := by decide

/-- The source's three bytes, in a queue that they fill. -/
theorem witness_QueueIsFirstInFirstOut :
    let bs : List Byte := [0x11, 0x22, 0x33]
    let s := { queued 3 [] with input := commands (bs.map Instr.pqPush ++ List.replicate 3 Instr.pqPop) ++ [] }
    2 < bs.length ∧ s.faulted = false ∧ s.pq = [] ∧ s.params.pqCap.holds bs.length = true ∧
      s.input = commands (bs.map Instr.pqPush ++ List.replicate (2 + 1) Instr.pqPop) ++ [] := by decide

theorem witness_FlagsDecideNothing :
    (∀ f, Instr.flagWrite .trap true ≠ .flagRead f) ∧ (∀ f x, Instr.xlatStrSrc true true 0 0 ≠ .flagWrite f x) :=
  ⟨fun _ => nofun, fun _ _ => nofun⟩

theorem witness_FaultEntryWritesOnlyStatus :
    ∃ t, runCommand 0x0800000000000000 base = .next t ∧ base.faulted = false ∧ t.faulted = true :=
  ⟨_, rfl, rfl, rfl⟩

/-- A state and a word for each line of R237, and a legal command that meets none of them. -/
theorem witness_FaultChosenByPriority :
    stopped.faulted = true ∧
    expectedFault 0x0800000000000001 base = some (.illegalCommand, 0) ∧
    expectedFault 0x0800000000000000 base = some (.noAddressLatched, 0) ∧
    expectedFault 0x0C00000000000001 (latched 0x100000) = some (.outOfRange, 0x100000) ∧
    expectedFault 0x50000000000000CC (queued 2 [0xAA, 0xBB]) = some (.queueOverflow, 0) ∧
    expectedFault 0x0800000000000000 (latched 0xFFFFF) = none ∧
    base.faulted = false ∧ (latched 0x100000).faulted = false ∧ (latched 0xFFFFF).faulted = false ∧
    (queued 2 [0xAA, 0xBB]).faulted = false := by decide

theorem witness_FaultedBlockRefuses :
    stopped.faulted = true ∧ ∃ t, serve (.reset ResetDraw.zero) stopped = .next t ∧ t.faulted = false :=
  ⟨rfl, _, rfl, rfl⟩

theorem witness_FaultIsKeptUntilReset :
    let ws : List CommandWord := [0x4800000000000000, 0x0400000000000000]
    let s := { stopped with input := ws.map Input.command ++ [] }
    s.faulted = true ∧ ws ≠ [] ∧ s.input = ws.map Input.command ++ [] := by decide

theorem witness_SegmentRegisterCommands : defaultSeg .strSrc = .ds ∧ defaultSeg .stack = .ss := by decide

theorem witness_ResetMeetsInvariant :
    Params.wf { pqCap := .unbounded, cpuMode := .minimum } = true ∧
      Params.wf { pqCap := .bounded 1, cpuMode := .maximum } = true := by decide

/-- The state after reset, and the state after the out-of-range fault of §2.6, meet the invariant; both step. -/
theorem witness_StepKeepsInvariant :
    (State.reset.Inv ∧ ∃ t, step (ofBits 0x0800000000000000 State.reset) = .next t) ∧
      stopped.Inv ∧ ∃ t, step (ofBits 0x0800000000000000 stopped) = .next t := by
  refine ⟨⟨⟨rfl, rfl, rfl, ⟨rfl, rfl, rfl⟩, nofun, by simp [State.reset, State.powerOn]⟩, _, rfl⟩,
    ⟨rfl, rfl, rfl, ⟨rfl, rfl, by decide, .busRead, rfl, rfl⟩, ?_, ?_⟩, _, rfl⟩
  · intro r h
    cases h
    exact ⟨fun _ => rfl, fun _ => rfl⟩
  · exact ⟨fun _ => ⟨_, rfl, by decide⟩, fun _ => rfl⟩

/-- Nothing sent; a legal word, an illegal one and a reset at the head. -/
theorem witness_StepServesOldestInput :
    base.input = [] ∧ (ofBits 0x4800000000000000 base).input = .command 0x4800000000000000 :: [] ∧
      (ofBits 0 base).input = .command 0 :: [] ∧
      { stopped with input := [.reset ResetDraw.zero] }.input = .reset ResetDraw.zero :: [] := by decide

theorem witness_StepRunsDecodedCommand :
    (ofBits 0x4800000000000000 base).faulted = false ∧
      (ofBits 0x4800000000000000 base).input = .command 0x4800000000000000 :: [] ∧
      decode 0x4800000000000000 = .ok .ipRead :=
  ⟨rfl, rfl, rfl⟩

/-- A faulted block, a faulting command, and a command that answers `OK`. -/
theorem witness_ResponseShape :
    stopped.faulted = true ∧
    (∃ t, runCommand 0x0800000000000000 base = .next t ∧ base.faulted = false ∧ t.faulted = true) ∧
    (∃ t, runCommand 0x5400000000000000 base = .next t ∧ base.faulted = false ∧ t.faulted = false ∧
      decode 0x5400000000000000 = .ok .pqPop) :=
  ⟨rfl, ⟨_, rfl, rfl, rfl⟩, _, rfl, rfl, rfl, rfl⟩

theorem witness_ResultsAreZeroExtended :
    ∃ t r, exec (.xlatFetch false false 0) base = .next t ∧ t.response = some r ∧
      Instr.resultWidth? (.xlatFetch false false 0) = some 21 :=
  ⟨_, _, rfl, rfl, rfl⟩

/-- A reset that changes every register, for the reset case of the frames. -/
def drawn : State := { base with input := [.reset ResetDraw.zero] }

theorem witness_FlagChangesOnlyByFlagWrite :
    (∃ t, step (ofBits 0x8600000000000001 base) = .next t ∧ t.flags.get .trap ≠ base.flags.get .trap) ∧
    ∃ t, step { drawn with flags := { base.flags with carry := true } } = .next t ∧ t.flags.get .carry ≠ true :=
  ⟨⟨_, rfl, by decide⟩, _, rfl, by decide⟩

theorem witness_IpChangesOnlyByIpWrite :
    (∃ t, step (ofBits 0x4C0000000000FFFF base) = .next t ∧ t.ip ≠ base.ip) ∧
    ∃ t, step drawn = .next t ∧ t.ip ≠ drawn.ip :=
  ⟨⟨_, rfl, by decide⟩, _, rfl, by decide⟩

theorem witness_SegmentChangesOnlyBySegWrite :
    (∃ t, step (ofBits 0x444000000000FFFF base) = .next t ∧ t.seg.get .cs ≠ base.seg.get .cs) ∧
    ∃ t, step drawn = .next t ∧ t.seg.get .es ≠ drawn.seg.get .es :=
  ⟨⟨_, rfl, by decide⟩, _, rfl, by decide⟩

theorem witness_RegisterChangesOnlyByRegWrite :
    (∃ t, step (ofBits 0x6440000000001234 base) = .next t ∧ t.gpr.get .bx ≠ base.gpr.get .bx) ∧
    (∃ t, step (ofBits 0x70C00000000000FF base) = .next t ∧ t.gpr.get .dx ≠ base.gpr.get .dx) ∧
    ∃ t, step (ofBits 0x74C00000000000AB base) = .next t ∧ t.gpr.get .dx ≠ base.gpr.get .dx :=
  ⟨⟨_, rfl, by decide⟩, ⟨_, rfl, by decide⟩, _, rfl, by decide⟩

theorem witness_PointerChangesOnlyByPtrWrite :
    ∃ t, step (ofBits 0x7C40000000001234 base) = .next t ∧ t.ptr.get .bp ≠ base.ptr.get .bp :=
  ⟨_, rfl, by decide⟩

theorem witness_QueueChangesOnlyByPushAndPop :
    (∃ t, step (ofBits 0x5000000000000022 base) = .next t ∧ t.pq ≠ base.pq) ∧
    (∃ t, step (ofBits 0x5400000000000000 (queued 1 [0xAA])) = .next t ∧ t.pq ≠ (queued 1 [0xAA]).pq) ∧
    ∃ t, step { drawn with pq := [0xAA] } = .next t ∧ t.pq ≠ [0xAA] :=
  ⟨⟨_, rfl, by decide⟩, ⟨_, rfl, by decide⟩, _, rfl, by decide⟩

theorem witness_LatchChangesOnlyByLatching :
    (∃ t, step (ofBits 0x04000000000FFFFF base) = .next t ∧ t.latch ≠ base.latch) ∧
    (∃ t, step (ofBits 0x3010000000001234 base) = .next t ∧ t.latchValid ≠ base.latchValid) ∧
    ∃ t, step { drawn with latchValid := true } = .next t ∧ t.latchValid ≠ true :=
  ⟨⟨_, rfl, by decide⟩, ⟨_, rfl, by decide⟩, _, rfl, by decide⟩

theorem witness_MemoryChangesOnlyByBusWrite :
    (∃ t, step (ofBits 0x0C000000000000FF (latched 0xFFFFF)) = .next t ∧
      t.mem.read 0xFFFFF ≠ (latched 0xFFFFF).mem.read 0xFFFFF) ∧
    ∃ t, step { drawn with mem := [(3, 4)] } = .next t ∧ t.mem.read 3 ≠ Memory.read [(3, 4)] 3 :=
  ⟨⟨_, rfl, by decide⟩, _, rfl, by decide⟩

theorem witness_FaultStatusChangesOnlyByFault :
    (∃ t, step (ofBits 0 base) = .next t ∧ t.faulted ≠ base.faulted) ∧
    ∃ t, step { stopped with input := [.reset ResetDraw.zero] } = .next t ∧ t.fcause ≠ stopped.fcause :=
  ⟨⟨_, rfl, by decide⟩, _, rfl, by decide⟩

/-- A state with nothing latched, before a command that latches. -/
theorem witness_LatchUnobservableUntilValid :
    (ofBits 0x04000000000FFFFF base).latchValid = false ∧
      ∃ t, step (ofBits 0x04000000000FFFFF base) = .next t ∧ t.latchValid = true :=
  ⟨rfl, _, rfl, rfl⟩

theorem witness_AssemblerRejectsWhatDoesNotFit :
    (AddrMode.bpData, "XLAT_BPDATA") ∈ [(AddrMode.stack, "XLAT_STACK"), (.strSrc, "XLAT_STRSRC"),
      (.strDst, "XLAT_STRDST"), (.data, "XLAT_DATA"), (.bpData, "XLAT_BPDATA")] := by decide

/-- Program P4's store, whose second byte wraps in its segment; and a store in the fetch mode, at one address. -/
theorem witness_StoreWordIsLittleEndian :
    ∀ mode ∈ [AddrMode.data, .fetch],
      let s := { base with input := commands (Pseudo.stw mode 0xFFFF 0x1234 none).expand ++ [] }
      s.faulted = false ∧ s.mem.wf = true ∧
        (translatedAddress mode (none : Option Word).isSome ((none : Option Word).getD 0) 0xFFFF s).toNat
          < addressSpaceSize ∧
        (translatedAddress mode (none : Option Word).isSome ((none : Option Word).getD 0) (0xFFFF + 1) s).toNat
          < addressSpaceSize ∧
        s.input = commands (Pseudo.stw mode 0xFFFF 0x1234 none).expand ++ [] := by decide

/-- With an override, at the last word of memory. -/
theorem witness_LoadWordReadsBothBytes :
    let s := { base with input := commands (Pseudo.ldw .bpData 0xFFFE (some 0xF000)).expand ++ [] }
    s.faulted = false ∧
      (translatedAddress .bpData (some (0xF000 : Word)).isSome ((some (0xF000 : Word)).getD 0) 0xFFFE s).toNat
        < addressSpaceSize ∧
      (translatedAddress .bpData (some (0xF000 : Word)).isSome ((some (0xF000 : Word)).getD 0) (0xFFFE + 1) s).toNat
        < addressSpaceSize ∧
      s.input = commands (Pseudo.ldw .bpData 0xFFFE (some 0xF000)).expand ++ [] := by decide

theorem witness_DrainEmptiesQueue :
    let s := { queued 2 [0xAA, 0xBB] with input := commands (drainPq 2) ++ [] }
    s.faulted = false ∧ s.input = commands (drainPq s.pq.length) ++ [] ∧ 1 < s.pq.length := by decide

end Sys2Proof.Tests
end

/-! PROOFS. The state family (`10_state.md`): the invariant of the block, what may change each field of the state, and
what must not be observable. -/

namespace Sys2Proof

/-! ### The decoder on a legal word, and on an encoded command (R81, R85) -/

theorem Fields.noSel_of_le {f : Fields} (h : f.sel.toNat ≤ 0) (k : Except Illegal Instr) : f.noSel k = k :=
  if_pos (BitVec.eq_of_toNat_eq (Nat.le_zero.mp h))

theorem Fields.withSel_of_some {α : Type} {f : Fields} {ofCode? : BitVec 4 → Option α} {a : α}
    (h : ofCode? f.sel = some a) (k : α → Except Illegal Instr) : f.withSel ofCode? k = k a := by
  simp only [Fields.withSel, h]

theorem Fields.noXlat_of_zero {f : Fields} (h : f.o = false ∧ f.l = false ∧ f.ovr = 0) (k : Except Illegal Instr) :
    f.noXlat k = k := if_pos h

theorem Fields.withImm_of_lt {f : Fields} {n : Nat} (h : f.imm.toNat < 2 ^ n) (k : BitVec n → Except Illegal Instr) :
    f.withImm n k = k (f.imm.setWidth n) := by
  refine if_pos (BitVec.eq_of_toNat_eq ?_)
  simp [BitVec.toNat_ushiftRight, Nat.shiftRight_eq_div_pow, Nat.div_eq_of_lt h]

theorem Fields.noImm_of_lt {f : Fields} (h : f.imm.toNat < 2 ^ 0) (k : Except Illegal Instr) : f.noImm k = k :=
  if_pos (BitVec.eq_of_toNat_eq (Nat.lt_one_iff.mp h))

/-- The checks of one row of R85 as facts about the fields. -/
theorem FieldRule.admits_iff {r : FieldRule} {f : Fields} :
    r.admits f = true ↔
      f.rsv = 0 ∧ f.sel.toNat ≤ r.selMax ∧ (r.xlatFields = false → f.o = false ∧ f.l = false ∧ f.ovr = 0) ∧
        f.imm.toNat < 2 ^ r.immBits := by
  cases h : r.xlatFields <;> simp [FieldRule.admits, h, and_assoc]

theorem Fields.legal_iff {f : Fields} :
    f.legal = true ↔ ∃ r, fieldRule f.opc = some r ∧ r.admits f = true := by
  unfold Fields.legal
  split <;> simp_all

theorem SegReg.exists_ofCode? {c : BitVec 4} (h : c.toNat ≤ 3) : ∃ r, SegReg.ofCode? c = some r :=
  Option.isSome_iff_exists.mp ((SegReg.ofCode?_isSome c).trans (decide_eq_true h))

theorem Gpr.exists_ofCode? {c : BitVec 4} (h : c.toNat ≤ 3) : ∃ r, Gpr.ofCode? c = some r :=
  Option.isSome_iff_exists.mp ((Gpr.ofCode?_isSome c).trans (decide_eq_true h))

theorem PtrReg.exists_ofCode? {c : BitVec 4} (h : c.toNat ≤ 3) : ∃ p, PtrReg.ofCode? c = some p :=
  Option.isSome_iff_exists.mp ((PtrReg.ofCode?_isSome c).trans (decide_eq_true h))

theorem Flag.exists_ofCode? {c : BitVec 4} (h : c.toNat ≤ 8) : ∃ g, Flag.ofCode? c = some g :=
  Option.isSome_iff_exists.mp ((Flag.ofCode?_isSome c).trans (decide_eq_true h))

/-- Fields that the table of R85 admits are a command: row by row, every check of the decoder passes. -/
theorem decodeFields_of_legal {f : Fields} (h : f.legal = true) : ∃ i, decodeFields f = .ok i := by
  obtain ⟨r, hr, ha⟩ := Fields.legal_iff.mp h
  obtain ⟨hrsv, hsel, hxlat, himm⟩ := FieldRule.admits_iff.mp ha
  unfold fieldRule at hr
  split at hr <;> cases hr <;> rename_i hopc <;>
    simp only [decodeFields, hopc, hrsv, ne_eq, not_true_eq_false, if_false] <;>
    simp only [reduceCtorEq, forall_const, IsEmpty.forall_iff] at hsel hxlat himm
  case' h_10.refl | h_11.refl =>
    obtain ⟨r, hr⟩ := SegReg.exists_ofCode? hsel
    rw [Fields.withSel_of_some hr]
  case' h_16.refl | h_17.refl | h_18.refl | h_19.refl | h_20.refl | h_21.refl =>
    obtain ⟨r, hr⟩ := Gpr.exists_ofCode? hsel
    rw [Fields.withSel_of_some hr]
  case' h_22.refl | h_23.refl =>
    obtain ⟨p, hp⟩ := PtrReg.exists_ofCode? hsel
    rw [Fields.withSel_of_some hp]
  case' h_24.refl | h_25.refl =>
    obtain ⟨g, hg⟩ := Flag.exists_ofCode? hsel
    rw [Fields.withSel_of_some hg]
  all_goals
    simp (disch := assumption) only [Fields.noSel_of_le, Fields.noXlat_of_zero, Fields.noImm_of_lt,
      Fields.withImm_of_lt, Except.ok.injEq, exists_eq']

theorem legal_eq_false_of_decode_error {w : CommandWord} {e : Illegal} (h : decode w = .error e) :
    (Fields.ofWord w).legal = false := by
  by_contra hl
  obtain ⟨i, hi⟩ := decodeFields_of_legal (Bool.eq_true_of_not_eq_false hl)
  cases h.symm.trans hi

/-- The decoder reads back every operand the encoder wrote. -/
theorem decodeFields_encodeFields (i : Instr) : decodeFields (encodeFields i) = .ok i := by
  cases i
  case flagWrite f x =>
    have hx : ∃ v : BitVec 1, (BitVec.ofBool x).setWidth 32 = v.setWidth 32 ∧ v[0] = x :=
      ⟨BitVec.ofBool x, rfl, by simp⟩
    simpa [decodeFields, encodeFields, Fields.withSel_eq_ok, Fields.noXlat_eq_ok, Fields.withImm_eq_ok] using hx
  all_goals
    simp [decodeFields, encodeFields, Fields.noSel_eq_ok, Fields.withSel_eq_ok, Fields.noXlat_eq_ok,
      Fields.noImm_eq_ok, Fields.withImm_eq_ok]

theorem decode_encode (i : Instr) : decode (encode i) = .ok i := by
  rw [decode, encode, Fields.ofWord_toWord, decodeFields_encodeFields]

/-! ### The queue within its capacity (R28) -/

theorem QueueCap.holds_of_le {c : QueueCap} {m n : Nat} (hmn : m ≤ n) (h : c.holds n = true) : c.holds m = true := by
  cases c with
  | unbounded => rfl
  | bounded k =>
    simp only [QueueCap.holds, decide_eq_true_eq] at h ⊢
    omega

end Sys2Proof

namespace Sys2Proof.Machine

/-! ### The branches of a rule, of a command word -/

theorem execBusRead_of_error {s : State} {e : FaultCause × BusAddr} (h : transferTarget s = .error e) :
    execBusRead s = .next (s.takeFault (encode .busRead) e.1 e.2) := by
  simp only [execBusRead, h, raise_eq]

theorem execBusRead_of_ok {s : State} {a : Nat} (h : transferTarget s = .ok a) :
    execBusRead s = .next (s.respond ((s.mem.read a).setWidth 32) true) := by
  simp only [execBusRead, h, answer_eq]

theorem execBusWrite_of_error {v : Byte} {s : State} {e : FaultCause × BusAddr} (h : transferTarget s = .error e) :
    execBusWrite v s = .next (s.takeFault (encode (.busWrite v)) e.1 e.2) := by
  simp only [execBusWrite, h, raise_eq]

theorem execBusWrite_of_ok {v : Byte} {s : State} {a : Nat} (h : transferTarget s = .ok a) :
    execBusWrite v s = .next ((s.writeByte a v).respond 0 false) := by
  simp only [execBusWrite, h, done_eq]

theorem execPqPush_of_full {b : Byte} {s : State} (h : s.queueFull = true) :
    execPqPush b s = .next (s.takeFault (encode (.pqPush b)) .queueOverflow 0) := if_pos h

theorem execPqPush_of_room {b : Byte} {s : State} (h : s.queueFull = false) :
    execPqPush b s = .next ((s.setQueue (s.pq ++ [b])).respond 0 false) := if_neg (by simp [h])

theorem execPqPop_of_empty {s : State} (h : s.pq = []) : execPqPop s = .next (s.respond 0 false) := by
  simp only [execPqPop, h, done_eq]

theorem execPqPop_of_cons {s : State} {b : Byte} {q : List Byte} (h : s.pq = b :: q) :
    execPqPop s = .next ((s.setQueue q).respond (b.setWidth 32) true) := by
  simp only [execPqPop, h, answer_eq]

theorem runCommand_of_faulted {w : CommandWord} {s : State} (h : s.faulted = true) :
    runCommand w s = .next s.refuse := if_pos h

theorem runCommand_of_illegal {w : CommandWord} {s : State} {e : Illegal} (hf : s.faulted = false)
    (h : decode w = .error e) : runCommand w s = .next (s.takeFault w .illegalCommand 0) := by
  simp [runCommand, hf, h, raise_eq]

theorem runCommand_of_decode {w : CommandWord} {s : State} {i : Instr} (hf : s.faulted = false)
    (h : decode w = .ok i) : runCommand w s = exec i s := by
  simp [runCommand, hf, h]

/-- A push that the capacity check lets through stays within the capacity. -/
theorem State.holds_push {s : State} {b : Byte} (h : s.params.pqCap.holds s.pq.length = true)
    (hfull : s.queueFull = false) : s.params.pqCap.holds (s.pq ++ [b]).length = true := by
  unfold State.queueFull at hfull
  cases hc : s.params.pqCap with
  | unbounded => rfl
  | bounded n =>
    simp only [hc, QueueCap.holds, decide_eq_true_eq, decide_eq_false_iff_not] at h hfull
    simp only [QueueCap.holds, List.length_append, List.length_singleton, decide_eq_true_eq]
    omega

/-! ### The fault status -/

theorem State.faultExplained_of_not_faulted {s : State} (h : s.faulted = false) :
    s.faultExplained ↔ s.fcause = .noFault ∧ s.fcmd = 0 ∧ s.faddr = 0 := by
  simp only [State.faultExplained, h]

/-- The fault a transfer takes for want of a target explains itself (R231, R232). -/
theorem faultExplained_takeFault_of_transferTarget {s : State} {i : Instr} {c : FaultCause} {a : BusAddr}
    (hi : i.isTransfer = true) (h : transferTarget s = .error (c, a)) :
    (s.takeFault (encode i) c a).faultExplained := by
  rcases transferTarget_of_error h with ⟨hv, he⟩ | ⟨hv, hr, he⟩ <;> cases he
  · exact ⟨rfl, hv, i, decode_encode i, hi⟩
  · exact ⟨rfl, hv, hr, i, decode_encode i, hi⟩

/-! ### The invariant -/

theorem State.Inv.takeFault {s : State} {w : CommandWord} {c : FaultCause} {a : BusAddr} (h : s.Inv)
    (hf : (s.takeFault w c a).faultExplained) : (s.takeFault w c a).Inv where
  memory := h.memory
  params := h.params
  queue := h.queue
  fault := hf
  response := by simp [Response.wf]
  status := by simp

theorem State.Inv.refuse {s : State} (h : s.Inv) (hs : s.faulted = true) : s.refuse.Inv where
  memory := h.memory
  params := h.params
  queue := h.queue
  fault := h.fault
  response := by simp [Response.wf]
  status := by simp [hs]

theorem State.Inv.setInput {s : State} (h : s.Inv) (xs : List Input) : (s.setInput xs).Inv :=
  ⟨h.memory, h.params, h.queue, h.fault, h.response, h.status⟩

theorem State.powerOn_inv {p : Params} (d : ResetDraw) (hp : p.wf = true) : (State.powerOn p d).Inv where
  memory := Memory.empty_wf
  params := hp
  queue := by cases h : p.pqCap <;> simp [State.powerOn, QueueCap.holds, h]
  fault := ⟨rfl, rfl, rfl⟩
  response := by simp [State.powerOn]
  status := by simp [State.powerOn]

theorem State.Inv.takeReset {s : State} (h : s.Inv) (d : ResetDraw) : (s.takeReset d).Inv :=
  (State.powerOn_inv d h.params).setInput s.input

/-- Answering `OK` after an effect on a block that has not faulted. -/
theorem State.inv_respond {t : State} {d : BitVec 32} {v : Bool} (hmem : t.mem.wf = true) (hp : t.params.wf = true)
    (hq : t.params.pqCap.holds t.pq.length = true) (hf : t.faulted = false) (he : t.faultExplained)
    (hd : v = false → d = 0) : (t.respond d v).Inv where
  memory := hmem
  params := hp
  queue := hq
  fault := he
  response := by simpa [Response.wf] using hd
  status := by simp [hf]

/-- No command's rule takes memory out of its canonical form: only a transfer writes, and below `addressSpaceSize`. -/
theorem exec_keeps_memory {i : Instr} {s t : State} (h : s.mem.wf = true) (hi : exec i s = .next t) :
    t.mem.wf = true := by
  obtain ⟨hmem | ⟨v, a, -, ht, hmem⟩, -⟩ := exec_effects hi
  · exact hmem ▸ h
  · obtain ⟨-, ha, rfl⟩ := transferTarget_of_ok ht
    exact hmem ▸ Memory.write_wf v h ha

/-- No command's rule takes the queue over its capacity. -/
theorem exec_keeps_queue {i : Instr} {s t : State} (h : s.params.pqCap.holds s.pq.length = true)
    (hi : exec i s = .next t) : s.params.pqCap.holds t.pq.length = true := by
  obtain ⟨-, -, -, -, hq | ⟨b, -, hfull, hq⟩ | ⟨b, -, hq⟩, -⟩ := exec_effects hi
  · exact hq ▸ h
  · exact hq ▸ State.holds_push h hfull
  · exact QueueCap.holds_of_le (by simp [hq]) h

theorem exec_keeps_inv {i : Instr} {s t : State} (h : s.Inv) (hs : s.faulted = false) (hi : exec i s = .next t) :
    t.Inv := by
  have hmem := exec_keeps_memory h.memory hi
  have hq := exec_keeps_queue h.queue hi
  rcases exec_cases i s with ⟨c, a, -, ⟨htr, ht⟩ | ⟨b, rfl, hfull, rfl, rfl⟩, he⟩ |
    ⟨u, d, v, he, -, -, hd, hf, hc, hw, ha, hp, -⟩ <;> cases he.symm.trans hi
  · exact h.takeFault (faultExplained_takeFault_of_transferTarget htr ht)
  · exact h.takeFault ⟨rfl, hfull, b, decode_encode _⟩
  · have hu : u.faulted = false := hf.trans hs
    have hexp : u.faultExplained := by
      rw [State.faultExplained_of_not_faulted hu, hc, hw, ha]
      exact (State.faultExplained_of_not_faulted hs).mp h.fault
    exact State.inv_respond hmem (hp ▸ h.params) (hp ▸ hq) hu hexp hd

/-- Settles O36: by what a step can do, each case keeps the invariant. -/
theorem stepKeepsInvariant : Obligations.StepKeepsInvariant := by
  intro s t h hstep
  rcases step_cases s with ⟨-, he⟩ | ⟨d, rest, -, he⟩ | ⟨w, rest, -, hf, he⟩ | ⟨w, rest, e, -, -, hw, he⟩ |
    ⟨w, rest, i, -, hf, -, he⟩
  · cases he.symm.trans hstep
    exact h
  · cases he.symm.trans hstep
    exact (h.setInput rest).takeReset d
  · cases he.symm.trans hstep
    exact (h.setInput rest).refuse hf
  · cases he.symm.trans hstep
    exact (h.setInput rest).takeFault ⟨rfl, legal_eq_false_of_decode_error hw⟩
  · exact exec_keeps_inv (h.setInput rest) hf (he.symm.trans hstep)

/-- Settles O35: every field of a reset state is at the value R33 gives it. -/
theorem resetMeetsInvariant : Obligations.ResetMeetsInvariant :=
  ⟨fun _ d hp => State.powerOn_inv d hp, State.powerOn_inv ResetDraw.zero rfl⟩

/-! ### The canonical form of memory (R30) -/

/-- A listed byte reads as itself. -/
theorem Memory.read_head (a : Nat) (b : Byte) (m : Memory) : Memory.read ((a, b) :: m) a = b := if_pos rfl

theorem Memory.read_tail {a c : Nat} (b : Byte) (m : Memory) (h : c ≠ a) :
    Memory.read ((a, b) :: m) c = m.read c := if_neg h

/-- Memories in the canonical form that read alike begin at the same address: the lower one of two would be a byte that
the other memory does not list. -/
theorem Memory.head_le_of_read_eq {a a' : Nat} {b b' : Byte} {m m' : Memory} (hb : b ≠ erasedByte)
    (hm' : Memory.wfFrom (a' + 1) m' = true) (h : Memory.read ((a, b) :: m) a = Memory.read ((a', b') :: m') a) :
    a' ≤ a := by
  by_contra hlt
  rw [Memory.read_head, Memory.read_tail b' m' (by omega), Memory.read_below hm' (by omega)] at h
  exact hb h

theorem Memory.eq_of_read_eq_from {m m' : Memory} {lo lo' : Nat} (hm : Memory.wfFrom lo m = true)
    (hm' : Memory.wfFrom lo' m' = true) (h : ∀ a, m.read a = m'.read a) : m = m' := by
  induction m generalizing lo lo' m' with
  | nil =>
    cases m' with
    | nil => rfl
    | cons c m' =>
      obtain ⟨-, -, hb, -⟩ := Memory.wfFrom_cons.mp hm'
      exact absurd ((h c.1).trans (Memory.read_head c.1 c.2 m')).symm hb
  | cons c m ih =>
    obtain ⟨a, b⟩ := c
    obtain ⟨-, -, hb, hm⟩ := Memory.wfFrom_cons.mp hm
    cases m' with
    | nil => exact absurd ((Memory.read_head a b m).symm.trans (h a)) hb
    | cons c' m' =>
      obtain ⟨a', b'⟩ := c'
      obtain ⟨-, -, hb', hm'⟩ := Memory.wfFrom_cons.mp hm'
      obtain rfl : a = a' :=
        le_antisymm (Memory.head_le_of_read_eq hb' hm (h a').symm) (Memory.head_le_of_read_eq hb hm' (h a))
      have hbb : b = b' := by simpa only [Memory.read_head] using h a
      have htail : ∀ c, Memory.read m c = Memory.read m' c := by
        intro c
        by_cases hc : c = a
        · rw [hc, Memory.read_below hm (by omega), Memory.read_below hm' (by omega)]
        · simpa only [Memory.read_tail _ _ hc] using h c
      rw [hbb, ih hm hm' htail]

/-- Settles O10: by induction on the listed bytes, whose heads agree in address and byte. -/
theorem memoryFormIsCanonical : Obligations.MemoryFormIsCanonical :=
  fun _ _ hm hm' h => Memory.eq_of_read_eq_from hm hm' h

/-! ### What may change what

A field of the block that taking an input, a refusal and a fault leave alone changes only by the rule of a command or by
a reset; which rule, `exec_effects` says. -/

theorem step_changes_field {α : Type} (p : State → α) {s t : State} (h : step s = .next t) (hne : p t ≠ p s)
    (hinput : ∀ s xs, p (State.setInput s xs) = p s := by intros; rfl)
    (hrefuse : ∀ s, p (State.refuse s) = p s := by intros; rfl)
    (hfault : ∀ s w c a, p (State.takeFault s w c a) = p s := by intros; rfl) :
    (∃ i rest, s.runs i ∧ exec i (s.setInput rest) = .next t) ∨ ∃ d, s.resets d := by
  rcases step_cases s with ⟨-, he⟩ | ⟨d, rest, hin, -⟩ | ⟨w, rest, -, -, he⟩ | ⟨w, rest, e, -, -, -, he⟩ |
    ⟨w, rest, i, hin, hf, hd, he⟩
  · cases he.symm.trans h
    exact absurd rfl hne
  · exact .inr ⟨d, rest, hin⟩
  · cases he.symm.trans h
    exact absurd ((hrefuse _).trans (hinput s rest)) hne
  · cases he.symm.trans h
    exact absurd ((hfault _ _ _ _).trans (hinput s rest)) hne
  · exact .inl ⟨i, rest, ⟨hf, w, rest, hin, hd⟩, he.symm.trans h⟩

/-- Settles O43: of the commands, only the rule of IP_WRITE changes `IP`. -/
theorem ipChangesOnlyByIpWrite : Obligations.IpChangesOnlyByIpWrite := by
  intro s t h hne
  rcases step_changes_field State.ip h hne with ⟨i, rest, hruns, hi⟩ | hreset
  · obtain ⟨-, -, -, hip | ⟨v, rfl, hip⟩, -⟩ := exec_effects hi
    · exact absurd hip hne
    · exact .inl ⟨v, hruns, hip⟩
  · exact .inr hreset

/-- Settles O44: of the commands, only the rule of SEG_WRITE changes a segment register, and only its own. -/
theorem segmentChangesOnlyBySegWrite : Obligations.SegmentChangesOnlyBySegWrite := by
  intro s t r h hne
  rcases step_changes_field (fun s => s.seg.get r) h hne with ⟨i, rest, hruns, hi⟩ | hreset
  · obtain ⟨-, -, hseg | ⟨r', v, rfl, hseg⟩, -⟩ := exec_effects hi <;> rw [hseg] at hne
    · exact absurd rfl hne
    · obtain rfl : r = r' := by
        by_contra hr
        exact hne (SegFile.get_set_other _ hr v)
      exact .inl ⟨v, hruns, by rw [hseg, SegFile.get_set_same]⟩
  · exact .inr hreset

/-- Settles O45: of the commands, only the rules of the three REG_WRITEs change a general-purpose register, and only
their own. -/
theorem registerChangesOnlyByRegWrite : Obligations.RegisterChangesOnlyByRegWrite := by
  intro s t r h hne
  rcases step_changes_field (fun s => s.gpr.get r) h hne with ⟨i, rest, hruns, hi⟩ | hreset
  · obtain ⟨-, -, -, -, -, hgpr | ⟨r', v, hwrite, hgpr⟩, -⟩ := exec_effects hi <;> rw [hgpr] at hne
    · exact absurd rfl hne
    · obtain rfl : r = r' := by
        by_contra hr
        exact hne (GprFile.get_set_other _ hr v)
      rcases hwrite with rfl | ⟨b, rfl⟩ | ⟨b, rfl⟩
      · exact .inl ⟨v, hruns⟩
      · exact .inr (.inl ⟨b, hruns⟩)
      · exact .inr (.inr (.inl ⟨b, hruns⟩))
  · exact .inr (.inr (.inr hreset))

/-- Settles O46: of the commands, only the rule of PTR_WRITE changes a pointer register, and only its own. -/
theorem pointerChangesOnlyByPtrWrite : Obligations.PointerChangesOnlyByPtrWrite := by
  intro s t p h hne
  rcases step_changes_field (fun s => s.ptr.get p) h hne with ⟨i, rest, hruns, hi⟩ | hreset
  · obtain ⟨-, -, -, -, -, -, hptr | ⟨p', v, rfl, hptr⟩, -⟩ := exec_effects hi <;> rw [hptr] at hne
    · exact absurd rfl hne
    · obtain rfl : p = p' := by
        by_contra hp
        exact hne (PtrFile.get_set_other _ hp v)
      exact .inl ⟨v, hruns, by rw [hptr, PtrFile.get_set_same]⟩
  · exact .inr hreset

/-- Settles O47: of the commands, only the rules of PQ_PUSH and PQ_POP change the queue, each at its end. -/
theorem queueChangesOnlyByPushAndPop : Obligations.QueueChangesOnlyByPushAndPop := by
  intro s t h hne
  rcases step_changes_field State.pq h hne with ⟨i, rest, hruns, hi⟩ | hreset
  · obtain ⟨-, -, -, -, hpq | ⟨b, rfl, -, hpq⟩ | ⟨b, rfl, hpq⟩, -⟩ := exec_effects hi
    · exact absurd hpq hne
    · exact .inl ⟨b, hruns, hpq⟩
    · exact .inr (.inl ⟨b, hruns, hpq⟩)
  · exact .inr (.inr hreset)

/-- Settles O48: of the commands, only the rules of BUS_LATCH and of a translation with `L = 1` change the latch or its
validity. -/
theorem latchChangesOnlyByLatching : Obligations.LatchChangesOnlyByLatching := by
  intro s t h hne
  have hpair : (t.latch, t.latchValid) ≠ (s.latch, s.latchValid) := by
    intro heq
    obtain ⟨hl, hv⟩ := Prod.mk.inj heq
    exact hne.elim (absurd hl) (absurd hv)
  rcases step_changes_field (fun s => (s.latch, s.latchValid)) h hpair with ⟨i, rest, hruns, hi⟩ | hreset
  · obtain ⟨-, ⟨hl, hv⟩ | ⟨-, ⟨a, rfl⟩ | ⟨mode, o, ovr, off, rfl⟩⟩, -⟩ := exec_effects hi
    · exact absurd (Prod.ext hl hv) hpair
    · exact .inl ⟨a, hruns⟩
    · exact .inr (.inl ⟨mode, o, ovr, off, hruns⟩)
  · exact .inr (.inr hreset)

/-- Settles O50: of the things a step can do, only a reset and the two ways to fault write the fault status. -/
theorem faultStatusChangesOnlyByFault : Obligations.FaultStatusChangesOnlyByFault := by
  intro s t h hne
  rcases step_cases s with ⟨-, he⟩ | ⟨d, rest, hin, -⟩ | ⟨w, rest, -, -, he⟩ | ⟨w, rest, e, -, hs, -, he⟩ |
    ⟨w, rest, i, -, hs, -, he⟩
  · cases he.symm.trans h
    simp at hne
  · exact .inr ⟨d, rest, hin⟩
  · cases he.symm.trans h
    simp at hne
  · cases he.symm.trans h
    exact .inl ⟨hs, rfl⟩
  · have hi := he.symm.trans h
    rcases exec_cases i (s.setInput rest) with ⟨c, a, -, -, he⟩ | ⟨u, d, v, he, -, -, -, hf, hc, hw, ha, -⟩ <;>
      cases he.symm.trans hi
    · exact .inl ⟨hs, rfl⟩
    · simp [hf, hc, hw, ha] at hne

/-! ### No rule but FLAG_READ reads a flag (R27) -/

/-- Settles O29: rule by rule, a command run with other flags takes the same branch and has the same effect. -/
theorem flagsDecideNothing : Obligations.FlagsDecideNothing := by
  intro i s b hread
  cases i
  case flagRead f => exact absurd rfl (hread f)
  case flagWrite f x => exact ⟨_, _, rfl, rfl, fun hwrite => absurd rfl (hwrite f x)⟩
  case busRead =>
    rcases execBusRead_cases s with ⟨e, ht, he⟩ | ⟨a, ht, he⟩
    · exact ⟨_, b, he, execBusRead_of_error ht, fun _ => ⟨rfl, rfl⟩⟩
    · exact ⟨_, b, he, execBusRead_of_ok ht, fun _ => ⟨rfl, rfl⟩⟩
  case busWrite v =>
    rcases execBusWrite_cases v s with ⟨e, ht, he⟩ | ⟨a, ht, he⟩
    · exact ⟨_, b, he, execBusWrite_of_error ht, fun _ => ⟨rfl, rfl⟩⟩
    · exact ⟨_, b, he, execBusWrite_of_ok ht, fun _ => ⟨rfl, rfl⟩⟩
  case pqPush c =>
    rcases execPqPush_cases c s with ⟨hq, he⟩ | ⟨hq, he⟩
    · exact ⟨_, b, he, execPqPush_of_full hq, fun _ => ⟨rfl, rfl⟩⟩
    · exact ⟨_, b, he, execPqPush_of_room hq, fun _ => ⟨rfl, rfl⟩⟩
  case pqPop =>
    rcases execPqPop_cases s with ⟨hp, he⟩ | ⟨c, q, hp, he⟩
    · exact ⟨_, b, he, execPqPop_of_empty hp, fun _ => ⟨rfl, rfl⟩⟩
    · exact ⟨_, b, he, execPqPop_of_cons hp, fun _ => ⟨rfl, rfl⟩⟩
  case xlatFetch _ l _ | xlatStack _ l _ _ | xlatStrSrc _ l _ _ | xlatStrDst _ l _ _ | xlatData _ l _ _ |
      xlatBpData _ l _ _ =>
    cases l <;> exact ⟨_, b, rfl, rfl, fun _ => ⟨rfl, rfl⟩⟩
  all_goals exact ⟨_, b, rfl, rfl, fun _ => ⟨rfl, rfl⟩⟩

/-! ### `LATCH` while `LATCH_VALID` is 0 (R33, I4) -/

/-- Two outcomes that show nothing of the value `LATCH` had: the same next state but for `LATCH`, and altogether once it
is valid. -/
def LatchUnobserved (r r' : Result) : Prop :=
  ∃ t a', r = .next t ∧ r' = .next { t with latch := a' } ∧ (t.latchValid = true → a' = t.latch)

theorem LatchUnobserved.of_same {r r' : Result} {t : State} (h : r = .next t) (h' : r' = .next t) :
    LatchUnobserved r r' := ⟨t, t.latch, h, h', fun _ => rfl⟩

theorem LatchUnobserved.of_not_valid {r r' : Result} {t : State} {a : BusAddr} (h : r = .next t)
    (h' : r' = .next { t with latch := a }) (hv : t.latchValid = false) : LatchUnobserved r r' :=
  ⟨t, a, h, h', fun ht => absurd (hv.symm.trans ht) Bool.false_ne_true⟩

theorem transferTarget_of_not_valid {s : State} (h : s.latchValid = false) :
    transferTarget s = .error (.noAddressLatched, 0) := if_pos h

/-- A rule either latches an address of its own, or leaves the latch alone and does not look at it: a transfer without
a valid latch faults without its value. -/
theorem exec_latchUnobserved (i : Instr) {s : State} (h : s.latchValid = false) (a : BusAddr) :
    LatchUnobserved (exec i s) (exec i { s with latch := a }) := by
  have ht := transferTarget_of_not_valid h
  have ht' := transferTarget_of_not_valid (s := { s with latch := a }) h
  cases i
  case busLatch addr => exact .of_same rfl rfl
  case busRead => exact .of_not_valid (execBusRead_of_error ht) (execBusRead_of_error ht') h
  case busWrite v => exact .of_not_valid (execBusWrite_of_error ht) (execBusWrite_of_error ht') h
  case pqPush b =>
    rcases execPqPush_cases b s with ⟨hq, he⟩ | ⟨hq, he⟩
    · exact .of_not_valid he (execPqPush_of_full hq) h
    · exact .of_not_valid he (execPqPush_of_room hq) h
  case pqPop =>
    rcases execPqPop_cases s with ⟨hp, he⟩ | ⟨b, q, hp, he⟩
    · exact .of_not_valid he (execPqPop_of_empty hp) h
    · exact .of_not_valid he (execPqPop_of_cons hp) h
  case xlatFetch _ l _ | xlatStack _ l _ _ | xlatStrSrc _ l _ _ | xlatStrDst _ l _ _ | xlatData _ l _ _ |
      xlatBpData _ l _ _ =>
    cases l
    · exact .of_not_valid rfl rfl h
    · exact .of_same rfl rfl
  all_goals exact .of_not_valid rfl rfl h

/-- Settles O51: a reset draws a new `LATCH`, and no command shows the old one. -/
theorem latchUnobservableUntilValid : Obligations.LatchUnobservableUntilValid := by
  intro s a h
  change LatchUnobserved (step s) (step { s with latch := a })
  have hcommand {w rest} (hin : s.input = .command w :: rest) :
      step { s with latch := a } = runCommand w { s.setInput rest with latch := a } :=
    step_of_command (s := { s with latch := a }) hin
  rcases step_cases s with ⟨hin, he⟩ | ⟨d, rest, hin, he⟩ | ⟨w, rest, hin, hf, he⟩ | ⟨w, rest, e, hin, hf, hd, he⟩ |
    ⟨w, rest, i, hin, hf, hd, he⟩
  · exact .of_not_valid he (step_of_empty hin) h
  · exact .of_same he (step_of_reset hin)
  · exact .of_not_valid he ((hcommand hin).trans (runCommand_of_faulted hf)) h
  · exact .of_not_valid he ((hcommand hin).trans (runCommand_of_illegal hf hd)) h
  · rw [he, (hcommand hin).trans (runCommand_of_decode hf hd)]
    exact exec_latchUnobserved i (s := s.setInput rest) h a

/-! ### Codes -/

/-- Settles O2: the tables, read off. -/
theorem codesAreTheSpecs : Obligations.CodesAreTheSpecs := ⟨rfl, rfl, rfl, rfl, rfl, rfl⟩

end Sys2Proof.Machine

/-! PROOFS. The memory family (`20_memory.md`): the order in which the inputs are served, and what may change a byte of
memory. -/

namespace Sys2Proof.Machine

/-! ### What serving an input leaves alone (R51, R262) -/

/-- A command's rule ends in a state with the inputs and the parameters it began with. -/
theorem exec_next_keeps_input_params (i : Instr) (s : State) :
    ∃ t, exec i s = .next t ∧ t.input = s.input ∧ t.params = s.params := by
  rcases exec_cases i s with ⟨c, a, -, -, he⟩ | ⟨u, d, v, he, -, -, -, -, -, -, -, hparams, hinput⟩
  · exact ⟨_, he, rfl, rfl⟩
  · exact ⟨_, he, hinput, hparams⟩

theorem runCommand_next_keeps_input_params (w : CommandWord) (s : State) :
    ∃ t, runCommand w s = .next t ∧ t.input = s.input ∧ t.params = s.params := by
  rcases runCommand_cases w s with ⟨-, he⟩ | ⟨e, -, -, he⟩ | ⟨i, -, -, he⟩
  · exact ⟨_, he, rfl, rfl⟩
  · exact ⟨_, he, rfl, rfl⟩
  · exact he ▸ exec_next_keeps_input_params i s

theorem serve_next_keeps_input_params (x : Input) (s : State) :
    ∃ t, serve x s = .next t ∧ t.input = s.input ∧ t.params = s.params := by
  cases x with
  | command w => exact runCommand_next_keeps_input_params w s
  | reset d => exact ⟨s.takeReset d, rfl, rfl, rfl⟩

/-- Settles O38: the step takes the oldest input off the list, and serving it touches neither the inputs left nor the
parameters. -/
theorem stepServesOldestInput : Obligations.StepServesOldestInput := by
  intro s
  refine ⟨step_of_empty, fun x rest hin => ?_⟩
  have hstep := step_of_input hin
  obtain ⟨t, ht, hinput, hparams⟩ := serve_next_keeps_input_params x (s.setInput rest)
  exact ⟨hstep, t, hstep.trans ht, hinput, hparams⟩

/-! ### What may change a byte of memory (R50, R58) -/

/-- Settles O49: of the commands, only the rule of BUS_WRITE changes memory, and only at its target, which is the
latched address. -/
theorem memoryChangesOnlyByBusWrite : Obligations.MemoryChangesOnlyByBusWrite := by
  intro s t a h hne
  rcases step_changes_field (fun s => s.mem.read a) h hne with ⟨i, rest, hruns, hi⟩ | hreset
  · obtain ⟨hmem | ⟨v, b, rfl, htarget, hmem⟩, -⟩ := exec_effects hi <;> rw [hmem] at hne
    · exact absurd rfl hne
    · obtain rfl : a = b := by
        by_contra hab
        exact hne (Memory.read_write_other s.mem v hab)
      obtain ⟨hvalid, hrange, haddr⟩ := transferTarget_of_ok htarget
      exact .inl ⟨v, hruns, hvalid, haddr, haddr ▸ hrange⟩
  · exact .inr hreset

end Sys2Proof.Machine

/-! PROOFS. The encoding family (`30_encoding.md`): the round trip between words and commands, the rows of the opcode
table, the response of a command, and the assembler with its pseudo-commands. -/

namespace Sys2Proof

/-! ### A word that decodes is the encoding of its command (R81, R85) -/

theorem SegReg.ofCode?_eq_some {c : BitVec 4} {r : SegReg} : SegReg.ofCode? c = some r ↔ c = r.code :=
  ⟨fun h => (SegReg.code_of_ofCode? h).symm, fun h => h ▸ SegReg.ofCode?_code r⟩

theorem Gpr.ofCode?_eq_some {c : BitVec 4} {r : Gpr} : Gpr.ofCode? c = some r ↔ c = r.code :=
  ⟨fun h => (Gpr.code_of_ofCode? h).symm, fun h => h ▸ Gpr.ofCode?_code r⟩

theorem PtrReg.ofCode?_eq_some {c : BitVec 4} {p : PtrReg} : PtrReg.ofCode? c = some p ↔ c = p.code :=
  ⟨fun h => (PtrReg.code_of_ofCode? h).symm, fun h => h ▸ PtrReg.ofCode?_code p⟩

theorem Flag.ofCode?_eq_some {c : BitVec 4} {g : Flag} : Flag.ofCode? c = some g ↔ c = g.code :=
  ⟨fun h => (Flag.code_of_ofCode? h).symm, fun h => h ▸ Flag.ofCode?_code g⟩

/-- The one bit of a FLAG_WRITE immediate, as the decoder reads it and the encoder writes it back. -/
theorem ofBool_getLsbD_zero : ∀ x : BitVec 1, BitVec.ofBool (x.getLsbD 0) = x := by decide

/-- Row by row of the opcode map: the checks that the decoder passed fix every field that is no operand. -/
theorem encodeFields_of_decodeFields {f : Fields} {i : Instr} (h : decodeFields f = .ok i) : encodeFields i = f := by
  obtain ⟨opc, sel, o, l, rsv, ovr, imm⟩ := f
  unfold decodeFields at h
  split at h
  · cases h
  next hrsv =>
    obtain rfl : rsv = 0 := not_not.mp hrsv
    split at h
    case h_26 => cases h
    all_goals
      rename_i hopc
      subst hopc
      simp only [Fields.noSel_eq_ok, Fields.withSel_eq_ok, Fields.noXlat_eq_ok, Fields.noImm_eq_ok,
        Fields.withImm_eq_ok, Nat.reduceLeDiff, SegReg.ofCode?_eq_some, Gpr.ofCode?_eq_some, PtrReg.ofCode?_eq_some,
        Flag.ofCode?_eq_some, Except.ok.injEq] at h
    case h_1 =>
      obtain ⟨rfl, ⟨rfl, rfl, rfl⟩, rfl⟩ := h
      rfl
    case h_2 | h_12 | h_15 =>
      obtain ⟨rfl, ⟨rfl, rfl, rfl⟩, rfl, rfl⟩ := h
      rfl
    case h_3 | h_13 | h_14 =>
      obtain ⟨rfl, ⟨rfl, rfl, rfl⟩, v, rfl, rfl⟩ := h
      rfl
    case h_4 =>
      obtain ⟨rfl, rfl, rfl⟩ := h
      rfl
    case h_5 | h_6 | h_7 | h_8 | h_9 =>
      obtain ⟨rfl, off, rfl, rfl⟩ := h
      rfl
    case h_10 | h_16 | h_18 | h_19 | h_22 | h_24 =>
      obtain ⟨r, rfl, ⟨rfl, rfl, rfl⟩, rfl, rfl⟩ := h
      rfl
    case h_11 | h_17 | h_20 | h_21 | h_23 =>
      obtain ⟨r, rfl, ⟨rfl, rfl, rfl⟩, v, rfl, rfl⟩ := h
      rfl
    case h_25 =>
      obtain ⟨g, rfl, ⟨rfl, rfl, rfl⟩, x, rfl, rfl⟩ := h
      rw [encodeFields, ofBool_getLsbD_zero]
      rfl

/-- Settles O3: the decoder reads back the fields the encoder wrote, and no bit of them is lost in the word. -/
theorem decodeEncode : Obligations.DecodeEncode := decode_encode

/-- Settles O4: the command's fields are those of the word, and a word is its fields. -/
theorem encodeDecode : Obligations.EncodeDecode := by
  intro w i h
  rw [encode, encodeFields_of_decodeFields h, Fields.toWord_ofWord]

/-! ### The rows of the opcode table (R83, R85) -/

/-- The encoder writes fields that the table of R85 admits. -/
theorem encodeFields_legal : ∀ i : Instr, (encodeFields i).legal = true
  | .busLatch addr => Laws.EncodingLegal.busLatch addr
  | .busRead => Laws.EncodingLegal.busRead
  | .busWrite v => Laws.EncodingLegal.busWrite v
  | .xlatFetch o l ovr => Laws.EncodingLegal.xlatFetch o l ovr
  | .xlatStack o l ovr off => Laws.EncodingLegal.xlatStack o l ovr off
  | .xlatStrSrc o l ovr off => Laws.EncodingLegal.xlatStrSrc o l ovr off
  | .xlatStrDst o l ovr off => Laws.EncodingLegal.xlatStrDst o l ovr off
  | .xlatData o l ovr off => Laws.EncodingLegal.xlatData o l ovr off
  | .xlatBpData o l ovr off => Laws.EncodingLegal.xlatBpData o l ovr off
  | .segRead r => Laws.EncodingLegal.segRead r
  | .segWrite r v => Laws.EncodingLegal.segWrite r v
  | .ipRead => Laws.EncodingLegal.ipRead
  | .ipWrite v => Laws.EncodingLegal.ipWrite v
  | .pqPush b => Laws.EncodingLegal.pqPush b
  | .pqPop => Laws.EncodingLegal.pqPop
  | .regRead r => Laws.EncodingLegal.regRead r
  | .regWrite r v => Laws.EncodingLegal.regWrite r v
  | .regReadLo r => Laws.EncodingLegal.regReadLo r
  | .regReadHi r => Laws.EncodingLegal.regReadHi r
  | .regWriteLo r b => Laws.EncodingLegal.regWriteLo r b
  | .regWriteHi r b => Laws.EncodingLegal.regWriteHi r b
  | .ptrRead p => Laws.EncodingLegal.ptrRead p
  | .ptrWrite p v => Laws.EncodingLegal.ptrWrite p v
  | .flagRead f => Laws.EncodingLegal.flagRead f
  | .flagWrite f x => Laws.EncodingLegal.flagWrite f x

/-- The opcode of a row's words. -/
def OpcodeRow.opcode (row : OpcodeRow) : BitVec 6 := (Fields.ofWord row.pattern).opc

/-- The bits of a word that its row of R85 fixes, field by field: of `sel`, those above the width of the largest legal
value. -/
def FieldRule.mask (r : FieldRule) : Fields where
  opc := BitVec.allOnes 6
  sel := BitVec.allOnes 4 <<< r.selMax.size
  o := !r.xlatFields
  l := !r.xlatFields
  rsv := BitVec.allOnes 4
  ovr := if r.xlatFields then 0 else BitVec.allOnes 16
  imm := BitVec.allOnes 32 <<< r.immBits

/-- The bits of `f` that `m` selects. -/
def Fields.and (f m : Fields) : Fields where
  opc := f.opc &&& m.opc
  sel := f.sel &&& m.sel
  o := f.o && m.o
  l := f.l && m.l
  rsv := f.rsv &&& m.rsv
  ovr := f.ovr &&& m.ovr
  imm := f.imm &&& m.imm

theorem Fields.ofWord_and (w m : CommandWord) :
    Fields.ofWord (w &&& m) = (Fields.ofWord w).and (Fields.ofWord m) := by
  simp only [Fields.ofWord, Fields.and, BitVec.extractLsb'_and, BitVec.getLsbD_and]

theorem Fields.ofWord_inj {w w' : CommandWord} : Fields.ofWord w = Fields.ofWord w' ↔ w = w' :=
  ⟨fun h => by rw [← Fields.toWord_ofWord w, h, Fields.toWord_ofWord], fun h => h ▸ rfl⟩

/-- A value is below `2 ^ k` exactly when a mask from bit `k` upwards finds no bit of it. -/
theorem and_allOnes_shiftLeft_eq_zero {n : Nat} (x : BitVec n) (k : Nat) :
    x &&& (BitVec.allOnes n <<< k) = 0 ↔ x.toNat < 2 ^ k := by
  constructor
  · intro h
    refine Nat.lt_pow_two_of_testBit _ fun j hj => ?_
    by_cases hn : j < n
    · have hbit := congrArg (BitVec.getLsbD · j) h
      simpa [hn, Nat.not_lt.mpr hj, show j - k < n by omega, BitVec.testBit_toNat] using hbit
    · exact BitVec.getLsbD_of_ge x j (by omega)
  · intro h
    refine BitVec.eq_of_getLsbD_eq fun j hj => ?_
    by_cases hk : k ≤ j
    · have hbit : x.getLsbD j = false := Nat.testBit_lt_two_pow (h.trans_le (Nat.pow_le_pow_right (by omega) hk))
      simp [hbit]
    · simp [show j < k by omega]

/-- The bits a row fixes and its range of `sel` are its checks of R85. -/
theorem FieldRule.masked_iff {r : FieldRule} {f : Fields} {opc : BitVec 6} :
    f.and r.mask = { opc } ∧ f.sel.toNat ≤ r.selMax ↔ f.opc = opc ∧ r.admits f = true := by
  have hsel (h : f.sel.toNat ≤ r.selMax) : f.sel.toNat < 2 ^ r.selMax.size := h.trans_lt (Nat.lt_size_self _)
  simp only [FieldRule.admits_iff, Fields.and, FieldRule.mask, Fields.mk.injEq, and_allOnes_shiftLeft_eq_zero]
  cases r.xlatFields <;> simp [-BitVec.reduceAllOnes] <;> tauto

/-- The opcode table is the table of R85 written as masks. -/
theorem opcodeTable_rows : ∀ row ∈ opcodeTable, Fields.ofWord row.pattern = { opc := row.opcode } ∧
    (fieldRule row.opcode).map (fun r => (r.mask, r.selMax)) = some (Fields.ofWord row.mask, row.selMax) := by decide

theorem OpcodeRow.covers_iff {row : OpcodeRow} (hrow : row ∈ opcodeTable) (w : CommandWord) :
    row.covers w = true ↔ (Fields.ofWord w).opc = row.opcode ∧ (Fields.ofWord w).legal = true := by
  obtain ⟨hpattern, hrule⟩ := opcodeTable_rows row hrow
  obtain ⟨r, hr, heq⟩ := Option.map_eq_some_iff.mp hrule
  obtain ⟨hmask, hmax⟩ := Prod.mk.inj heq
  calc row.covers w = true
      ↔ (Fields.ofWord w).and r.mask = { opc := row.opcode } ∧ (Fields.ofWord w).sel.toNat ≤ r.selMax := by
        rw [hmask, hmax, ← hpattern, ← Fields.ofWord_and, Fields.ofWord_inj]
        simp [OpcodeRow.covers]
    _ ↔ (Fields.ofWord w).opc = row.opcode ∧ r.admits (Fields.ofWord w) = true := FieldRule.masked_iff
    _ ↔ (Fields.ofWord w).opc = row.opcode ∧ (Fields.ofWord w).legal = true :=
        and_congr_right fun hopc => by simp [Fields.legal_iff, hopc, hr]

/-- The table has a row for every command, with its mnemonic and its opcode. -/
theorem Instr.exists_row (i : Instr) :
    ∃ row ∈ opcodeTable, row.mnemonic = i.mnemonic ∧ row.opcode = (encodeFields i).opc := by
  have h : (i.mnemonic, (encodeFields i).opc) ∈ opcodeTable.map fun row => (row.mnemonic, row.opcode) :=
    List.elem_iff.mp (by cases i <;> rfl)
  obtain ⟨row, hrow, heq⟩ := List.mem_map.mp h
  exact ⟨row, hrow, Prod.mk.inj heq⟩

theorem opcodeTable_mnemonics_nodup : (opcodeTable.map OpcodeRow.mnemonic).Nodup := by decide

theorem opcodeTable_opcodes_nodup : (opcodeTable.map OpcodeRow.opcode).Nodup := by decide

/-- A command has the mnemonic of a row exactly when it has its opcode. -/
theorem Instr.mnemonic_eq_iff {row : OpcodeRow} (hrow : row ∈ opcodeTable) (i : Instr) :
    i.mnemonic = row.mnemonic ↔ (encodeFields i).opc = row.opcode := by
  obtain ⟨row', hrow', hmnemonic, hopcode⟩ := i.exists_row
  rw [← hmnemonic, ← hopcode]
  exact ⟨fun h => List.inj_on_of_nodup_map opcodeTable_mnemonics_nodup hrow' hrow h ▸ rfl,
    fun h => List.inj_on_of_nodup_map opcodeTable_opcodes_nodup hrow' hrow h ▸ rfl⟩

/-- Settles O6: both sides say that the word is legal and has the row's opcode. -/
theorem opcodeTableRows : Obligations.OpcodeTableRows := by
  intro w row hrow
  rw [OpcodeRow.covers_iff hrow]
  constructor
  · rintro ⟨hopc, hlegal⟩
    obtain ⟨i, hi⟩ := decodeFields_of_legal hlegal
    exact ⟨i, hi, (i.mnemonic_eq_iff hrow).mpr (encodeFields_of_decodeFields hi ▸ hopc)⟩
  · rintro ⟨i, hi, hmnemonic⟩
    rw [← encodeFields_of_decodeFields hi]
    exact ⟨(i.mnemonic_eq_iff hrow).mp hmnemonic, encodeFields_legal i⟩

/-- Settles O1: each word decoded. -/
theorem specWordsDecode : Obligations.SpecWordsDecode := ⟨rfl, rfl, rfl, rfl, rfl, rfl, rfl, rfl⟩

end Sys2Proof

namespace Sys2Proof.Machine

/-! ### The response of a command (R84, R86) -/

/-- The one response of a command's rule: a fault; no value, from a command that has none or a pop of nothing; or a
value of the command's width. -/
theorem exec_response_cases (i : Instr) (s : State) :
    (∃ c a, exec i s = .next (s.takeFault (encode i) c a)) ∨
    (∃ t : State, exec i s = .next (t.respond 0 false) ∧ t.faulted = s.faulted ∧
      (i.resultWidth? = none ∨ i = .pqPop ∧ s.pq = [])) ∨
    (∃ (t : State) (n : Nat) (v : BitVec n), exec i s = .next (t.respond (v.setWidth 32) true) ∧
      t.faulted = s.faulted ∧ i.resultWidth? = some n ∧ ¬(i = .pqPop ∧ s.pq = [])) := by
  cases i
  case busRead =>
    rcases execBusRead_cases s with ⟨e, -, h⟩ | ⟨a, -, h⟩
    · exact .inl ⟨e.1, e.2, h⟩
    · exact .inr (.inr ⟨s, 8, _, h, rfl, rfl, nofun⟩)
  case busWrite v =>
    rcases execBusWrite_cases v s with ⟨e, -, h⟩ | ⟨a, -, h⟩
    · exact .inl ⟨e.1, e.2, h⟩
    · exact .inr (.inl ⟨_, h, rfl, .inl rfl⟩)
  case pqPush b =>
    rcases execPqPush_cases b s with ⟨-, h⟩ | ⟨-, h⟩
    · exact .inl ⟨_, _, h⟩
    · exact .inr (.inl ⟨_, h, rfl, .inl rfl⟩)
  case pqPop =>
    rcases execPqPop_cases s with ⟨hq, h⟩ | ⟨b, rest, hq, h⟩
    · exact .inr (.inl ⟨_, h, rfl, .inr ⟨rfl, hq⟩⟩)
    · exact .inr (.inr ⟨_, 8, b, h, rfl, rfl, by simp [hq]⟩)
  case xlatFetch _ l _ | xlatStack _ l _ _ | xlatStrSrc _ l _ _ | xlatStrDst _ l _ _ | xlatData _ l _ _ |
      xlatBpData _ l _ _ =>
    exact .inr (.inr ⟨_, 21, _, rfl, by cases l <;> rfl, rfl, nofun⟩)
  case segRead | ipRead | regRead | ptrRead => exact .inr (.inr ⟨s, 16, _, rfl, rfl, rfl, nofun⟩)
  case regReadLo | regReadHi => exact .inr (.inr ⟨s, 8, _, rfl, rfl, rfl, nofun⟩)
  case flagRead => exact .inr (.inr ⟨s, 1, _, rfl, rfl, rfl, nofun⟩)
  all_goals exact .inr (.inl ⟨_, rfl, rfl, .inl rfl⟩)

/-- Settles O40: a refused command, an illegal word, and the three responses of a command's rule. -/
theorem responseShape : Obligations.ResponseShape := by
  intro w s
  rcases runCommand_cases w s with ⟨hf, he⟩ | ⟨e, hf, hd, he⟩ | ⟨i, hf, hd, he⟩
  · exact ⟨_, _, he, rfl, by simp [hf, Response.refusing, Status.code]⟩
  · exact ⟨_, _, he, rfl, by simp [hf, hd, Response.faulting, Status.code]⟩
  · rcases exec_response_cases i s with ⟨c, a, hi⟩ | ⟨t, hi, ht, hnone⟩ | ⟨t, n, v, hi, ht, hn, hpop⟩
    · exact ⟨_, _, he.trans hi, rfl, by simp [hf, Response.faulting, Status.code]⟩
    · refine ⟨_, _, he.trans hi, rfl, fun _ => rfl, by simp [hf, ht, Status.code], by simp [hf],
        by simp [hf, ht], ?_⟩
      rintro j - - hj
      cases hd.symm.trans hj
      rcases hnone with h | h <;> simp [h]
    · refine ⟨_, _, he.trans hi, rfl, nofun, by simp [hf, ht, Status.code], by simp [hf], by simp [hf, ht], ?_⟩
      rintro j - - hj
      cases hd.symm.trans hj
      exact iff_of_true rfl ⟨hn ▸ rfl, hpop⟩

/-- Settles O41: a response that carries a value carries it in its width, and any other carries 0. -/
theorem resultsAreZeroExtended : Obligations.ResultsAreZeroExtended := by
  intro i s t r n h hr hn
  rcases exec_response_cases i s with ⟨c, a, hi⟩ | ⟨u, hi, -, -⟩ | ⟨u, m, v, hi, -, hm, -⟩ <;>
    cases hi.symm.trans h <;> cases hr
  · exact Nat.two_pow_pos n
  · exact Nat.two_pow_pos n
  · cases hm.symm.trans hn
    exact (BitVec.toNat_setWidth 32 v).trans_lt ((Nat.mod_le _ _).trans_lt v.isLt)

/-- Settles O39: the step runs the word, and a word that means `i` runs its rule. -/
theorem stepRunsDecodedCommand : Obligations.StepRunsDecodedCommand :=
  fun _ _ _ _ hf hin hd => (step_of_command hin).trans (runCommand_of_decode hf hd)

/-! ### The range check of the assembler (R92, R93) -/

theorem map_fit? {α : Type} {width bound : Nat} (k : BitVec width → α) (n : Nat) (h : 2 ^ width = bound + 1) :
    (fit? width n).map k = if n ≤ bound then some (k (BitVec.ofNat width n)) else none := by
  simp only [fit?, h, Nat.lt_succ_iff]
  split <;> rfl

/-- With no option the two register fields are 0; the offset is checked. -/
theorem xlatWithOffset?_plain (mode : AddrMode) (n : Nat) :
    xlatWithOffset? mode n [] = (fit? 16 n).map (.xlat mode false false 0) := by
  rw [Option.map_eq_bind]
  rfl

/-- With an override its segment is checked as well. -/
theorem xlatWithOffset?_override_latch (mode : AddrMode) (n : Nat) :
    xlatWithOffset? mode 0 [.override n, .latch] = (fit? 16 n).map fun seg => .xlat mode true true seg 0 :=
  Option.map_map _ _ _

/-- A translation's name leads to its mode. -/
theorem assemble?_xlat {mode : AddrMode} {name : String}
    (h : (mode, name) ∈ [(AddrMode.stack, "XLAT_STACK"), (.strSrc, "XLAT_STRSRC"), (.strDst, "XLAT_STRDST"),
      (.data, "XLAT_DATA"), (.bpData, "XLAT_BPDATA")]) (n : Nat) (opts : List AsmOperand) :
    (⟨name, some (.number n), opts⟩ : AsmLine).assemble? = xlatWithOffset? mode n opts := by
  simp only [List.mem_cons, Prod.mk.injEq, List.not_mem_nil, or_false] at h
  rcases h with ⟨rfl, rfl⟩ | ⟨rfl, rfl⟩ | ⟨rfl, rfl⟩ | ⟨rfl, rfl⟩ | ⟨rfl, rfl⟩ <;> rfl

/-- The bit of a FLAG_WRITE is whether the number is 1. -/
theorem map_bit? {α : Type} (k : Bool → α) (n : Nat) :
    (bit? n).map k = if n ≤ 1 then some (k (decide (n = 1))) else none := by
  rw [bit?, Option.map_map, map_fit? _ n (bound := 1) rfl]
  refine ite_congr rfl (fun hn => ?_) fun _ => rfl
  interval_cases n <;> rfl

/-- Settles O53: in each row the number goes through `fit?`, the check of its field's width. -/
theorem assemblerRejectsWhatDoesNotFit : Obligations.AssemblerRejectsWhatDoesNotFit := by
  intro n
  refine ⟨map_fit? _ n rfl, map_fit? _ n rfl, map_fit? _ n rfl, map_fit? _ n rfl, ?_, fun mode name h => ⟨?_, ?_⟩,
    map_fit? _ n rfl, map_fit? _ n rfl, map_fit? _ n rfl, map_fit? _ n rfl, map_fit? _ n rfl, map_bit? _ n⟩
  · exact (Option.map_map _ _ _).trans (map_fit? _ n rfl)
  · rw [assemble?_xlat h, xlatWithOffset?_plain, map_fit? _ n rfl]
  · rw [assemble?_xlat h, xlatWithOffset?_override_latch, map_fit? _ n rfl]

/-! ### Runs of commands (R80, R94) -/

/-- A run goes on from where its first part ends. -/
theorem run_add {M : Host.Core} {j k : Nat} {s t : M.State} (h : M.run j s = .next t) :
    M.run (j + k) s = M.run k t := by
  induction j generalizing s with
  | zero =>
    cases h
    rw [Nat.zero_add]
  | succ j ih =>
    rw [Nat.add_right_comm]
    simp only [Host.Core.run] at h ⊢
    split at h
    · exact ih h
    · cases h
    · cases h

/-- The first of several commands sent is run by its rule, with the later ones left. -/
theorem step_of_commands {s : State} {i : Instr} {is : List Instr} {rest : List Input} (hf : s.faulted = false)
    (hin : s.input = commands (i :: is) ++ rest) : step s = exec i (s.setInput (commands is ++ rest)) :=
  (step_of_command hin).trans (runCommand_of_decode hf (decode_encode i))

/-- A run of commands begins with the rule of the first. -/
theorem run_of_commands {k : Nat} {s t : State} {i : Instr} {is : List Instr} {rest : List Input}
    (hf : s.faulted = false) (hin : s.input = commands (i :: is) ++ rest)
    (hi : exec i (s.setInput (commands is ++ rest)) = .next t) :
    Host.Core.run Sys2Proof.core (k + 1) s = Host.Core.run Sys2Proof.core k t :=
  run_of_step ((step_of_commands hf hin).trans hi)

theorem transferTarget_of_valid {s : State} (hv : s.latchValid = true) (hr : s.latch.toNat < addressSpaceSize) :
    transferTarget s = .ok s.latch.toNat := by
  rw [transferTarget, if_neg (by simp [hv]), if_neg (by omega)]

/-! ### LDB and STB: a translation that latches, and the transfer at its address (R94) -/

/-- The translation of a pseudo-command latches and answers its address. -/
theorem exec_latchingXlat (mode : AddrMode) (off : Word) (ovr : Option Word) (s : State) :
    exec (latchingXlat mode off ovr) s =
      .next (s.translated true (translatedAddress mode ovr.isSome (ovr.getD 0) off s)) := by
  cases mode <;> rfl

/-- A physical address on the bus is the same number. -/
theorem toNat_busAddr (pa : PhysAddr) : (pa.setWidth 32 : BusAddr).toNat = pa.toNat :=
  BitVec.toNat_setWidth_of_le (by decide)

theorem transferTarget_translated {s : State} {pa : PhysAddr} (h : pa.toNat < addressSpaceSize) :
    transferTarget (s.translated true pa) = .ok pa.toNat := by
  have hlatch : (s.translated true pa).latch.toNat = pa.toNat := toNat_busAddr pa
  rw [transferTarget_of_valid rfl (hlatch ▸ h), hlatch]

theorem exec_busRead_translated {s : State} {pa : PhysAddr} (h : pa.toNat < addressSpaceSize) :
    exec .busRead (s.translated true pa) = .next { s with
      latch := pa.setWidth 32, latchValid := true, response := some (.value (s.mem.read pa.toNat)) } :=
  execBusRead_of_ok (transferTarget_translated h)

theorem exec_busWrite_translated {s : State} {pa : PhysAddr} (b : Byte) (h : pa.toNat < addressSpaceSize) :
    exec (.busWrite b) (s.translated true pa) = .next { s with
      mem := s.mem.write pa.toNat b, latch := pa.setWidth 32, latchValid := true, response := some .written } :=
  execBusWrite_of_ok (transferTarget_translated h)

section
variable {s : State} {mode : AddrMode} {off : Word} {ovr : Option Word} {rest : List Input} {pa : PhysAddr}

/-- LDB answers the byte at the translated address. -/
theorem run_expandLdb (hpa : translatedAddress mode ovr.isSome (ovr.getD 0) off s = pa) (hf : s.faulted = false)
    (hr : pa.toNat < addressSpaceSize) (hin : s.input = commands (expandLdb mode off ovr) ++ rest) :
    Host.Core.run Sys2Proof.core 2 s = .next { s with
      latch := pa.setWidth 32, latchValid := true, input := rest
      response := some (.value (s.mem.read pa.toNat)) } := by
  subst hpa
  exact (run_of_commands hf hin (exec_latchingXlat mode off ovr _)).trans
    (run_of_commands (is := []) hf rfl (exec_busRead_translated (s := s.setInput rest) hr))

/-- STB writes its byte at the translated address. -/
theorem run_expandStb (b : Byte) (hpa : translatedAddress mode ovr.isSome (ovr.getD 0) off s = pa)
    (hf : s.faulted = false) (hr : pa.toNat < addressSpaceSize)
    (hin : s.input = commands (expandStb mode off b ovr) ++ rest) :
    Host.Core.run Sys2Proof.core 2 s = .next { s with
      mem := s.mem.write pa.toNat b, latch := pa.setWidth 32, latchValid := true, input := rest
      response := some .written } := by
  subst hpa
  exact (run_of_commands hf hin (exec_latchingXlat mode off ovr _)).trans
    (run_of_commands (is := []) hf rfl (exec_busWrite_translated (s := s.setInput rest) b hr))

end

/-! ### LDW and STW: two bytes, the second at the next offset (R54, R94) -/

/-- Two offsets of one segment are two addresses. -/
theorem physicalAddress_injective (seg : Word) : Function.Injective (physicalAddress seg) := by
  intro off off' h
  have hoff := congrArg BitVec.toNat ((BitVec.add_right_inj _).mp h)
  rw [BitVec.toNat_setWidth_of_le (by decide), BitVec.toNat_setWidth_of_le (by decide)] at hoff
  exact BitVec.eq_of_toNat_eq hoff

/-- Outside the fetch mode the two bytes of a word lie at two addresses, the wrap from 0xFFFF to 0 included. -/
theorem translatedAddress_next_ne {mode : AddrMode} (hmode : mode ≠ .fetch) (o : Bool) (ovr off : Word) (s : State) :
    translatedAddress mode o ovr off s ≠ translatedAddress mode o ovr (off + 1) s := by
  intro h
  have hoff := physicalAddress_injective _ h
  have hnext : off = off + 1 := by
    cases mode
    case fetch => exact absurd rfl hmode
    all_goals exact hoff
  simp at hnext

/-- Settles O54: two STBs, of which the second neither translates otherwise nor touches the first's byte. -/
theorem storeWordIsLittleEndian : Obligations.StoreWordIsLittleEndian := by
  intro s mode off w ovr rest first second hf hmem hfirst hsecond hin
  have hsplit : s.input = commands (expandStb mode off (lowByte w) ovr) ++
      (commands (expandStb mode (off + 1) (highByte w) ovr) ++ rest) := hin
  have hrun := (run_add (run_expandStb (lowByte w) rfl hf hfirst hsplit)).trans
    (run_expandStb (highByte w) rfl hf hsecond rfl)
  refine ⟨_, hrun, fun hmode => ?_, ?_, fun a ha ha' => ?_, rfl⟩
  · have hne : first ≠ second := fun h => translatedAddress_next_ne hmode _ _ off s (BitVec.eq_of_toNat_eq h)
    exact (Memory.read_write_other _ _ hne).trans (Memory.read_write_same first _ hmem)
  · exact Memory.read_write_same second _ (Memory.write_wf _ hmem hfirst)
  · exact (Memory.read_write_other _ _ ha').trans (Memory.read_write_other _ _ ha)

/-- Settles O55: two LDBs, of which the second neither translates otherwise nor reads other bytes. -/
theorem loadWordReadsBothBytes : Obligations.LoadWordReadsBothBytes := by
  intro s mode off ovr rest first second hf hfirst hsecond hin
  have hsplit : s.input = commands (expandLdb mode off ovr) ++
      (commands (expandLdb mode (off + 1) ovr) ++ rest) := hin
  have hrun := run_expandLdb rfl hf hfirst hsplit
  exact ⟨_, _, hrun, rfl, (run_add hrun).trans (run_expandLdb rfl hf hsecond rfl), rfl, rfl⟩

/-! ### DRAINPQ: pops until a response has no value (R94, R206) -/

/-- A queued byte is popped and answered. -/
theorem run_pop_cons {k : Nat} {s : State} {b : Byte} {q : List Byte} {is : List Instr} {rest : List Input}
    (hf : s.faulted = false) (hq : s.pq = b :: q) (hin : s.input = commands (.pqPop :: is) ++ rest) :
    Host.Core.run Sys2Proof.core (k + 1) s = Host.Core.run Sys2Proof.core k
      { s with pq := q, input := commands is ++ rest, response := some (.value b) } :=
  run_of_commands hf hin (execPqPop_of_cons hq)

/-- A pop of an empty queue has no value. -/
theorem run_pop_empty {k : Nat} {s : State} {is : List Instr} {rest : List Input} (hf : s.faulted = false)
    (hq : s.pq = []) (hin : s.input = commands (.pqPop :: is) ++ rest) :
    Host.Core.run Sys2Proof.core (k + 1) s = Host.Core.run Sys2Proof.core k
      { s with pq := [], input := commands is ++ rest, response := some .written } := by
  rw [run_of_commands hf hin (execPqPop_of_empty hq), ← hq]
  rfl

/-- The loop's pops answer the queued bytes in order, by induction on the queue. -/
theorem run_drainPq_response {q : List Byte} {k : Nat} {s : State} {rest : List Input} (hf : s.faulted = false)
    (hq : s.pq = q) (hk : k < q.length) (hin : s.input = commands (drainPq q.length) ++ rest) :
    ∃ t : State, Host.Core.run Sys2Proof.core (k + 1) s = .next t ∧ t.response = some (.value q[k]) := by
  induction q generalizing k s with
  | nil => exact absurd hk (Nat.not_lt_zero k)
  | cons b q ih =>
    rw [run_pop_cons hf hq hin]
    cases k with
    | zero => exact ⟨_, rfl, rfl⟩
    | succ k => exact ih (s := { s with pq := q, input := _, response := _ }) hf rfl (Nat.lt_of_succ_lt_succ hk) rfl

/-- The loop ends with the queue empty and a response without a value, by induction on the queue. -/
theorem run_drainPq {q : List Byte} {s : State} {rest : List Input} (hf : s.faulted = false) (hq : s.pq = q)
    (hin : s.input = commands (drainPq q.length) ++ rest) :
    Host.Core.run Sys2Proof.core (q.length + 1) s =
      .next { s with pq := [], input := rest, response := some .written } := by
  induction q generalizing s with
  | nil => exact run_pop_empty (is := []) hf hq hin
  | cons b q ih => exact (run_pop_cons hf hq hin).trans (ih hf rfl rfl)

/-- Settles O56: the answers of the pops one by one, and the state after the last. -/
theorem drainEmptiesQueue : Obligations.DrainEmptiesQueue :=
  fun _ _ hf hin => ⟨fun _ hk => run_drainPq_response hf rfl hk hin, run_drainPq hf rfl hin⟩

end Sys2Proof.Machine

/-! PROOFS. The bus family (`41_bus_transfer.md`): the bus latch, and the byte transfers at its address. -/

namespace Sys2Proof

/-! ### The words of the three commands (R81, R110 to R112) -/

/-- The word of a command with no field but its opcode and `imm`. -/
theorem Fields.toWord_opc_imm (opc : BitVec 6) (imm : BitVec 32) :
    ({ opc, imm } : Fields).toWord = (opc.setWidth 64 <<< 58) ||| imm.setWidth 64 := by
  simp [Fields.toWord]

theorem encode_busLatch (addr : BusAddr) : encode (.busLatch addr) = 0x0400000000000000 ||| addr.setWidth 64 :=
  Fields.toWord_opc_imm 0x01 addr

theorem encode_busRead : encode .busRead = 0x0800000000000000 := rfl

theorem encode_busWrite (v : Byte) : encode (.busWrite v) = 0x0C00000000000000 ||| v.setWidth 64 :=
  (Fields.toWord_opc_imm 0x03 (v.setWidth 32)).trans (congrArg (_ ||| ·) (BitVec.setWidth_setWidth (by decide)))

end Sys2Proof

namespace Sys2Proof.Machine

/-! ### BUS_LATCH, BUS_READ and BUS_WRITE (R110 to R112) -/

theorem transferTarget_of_out_of_range {s : State} (hv : s.latchValid = true)
    (hr : addressSpaceSize ≤ s.latch.toNat) : transferTarget s = .error (.outOfRange, s.latch) := by
  rw [transferTarget, if_neg (by simp [hv]), if_pos hr]

/-- Settles O7: the rule of BUS_LATCH checks nothing. -/
theorem busLatchLatchesAnyAddress : Obligations.BusLatchLatchesAnyAddress :=
  fun addr _ => ⟨encode_busLatch addr, rfl⟩

/-- Settles O8: by the three cases of the target of a transfer. -/
theorem busReadAnswersLatchedByte : Obligations.BusReadAnswersLatchedByte := by
  refine ⟨encode_busRead, fun s => ⟨fun hv => ?_, fun hv hr => ?_, fun hv hr => ?_⟩⟩
  · exact execBusRead_of_error (transferTarget_of_not_valid hv)
  · exact execBusRead_of_error (transferTarget_of_out_of_range hv hr)
  · exact execBusRead_of_ok (transferTarget_of_valid hv hr)

/-- Settles O9: by the three cases of the target of a transfer, the last by what a write to memory leaves alone. -/
theorem busWriteWritesLatchedByte : Obligations.BusWriteWritesLatchedByte := by
  intro v s
  rw [← encode_busWrite]
  refine ⟨rfl, fun hv => ?_, fun hv hr => ?_, fun hv hr => ?_⟩
  · exact execBusWrite_of_error (transferTarget_of_not_valid hv)
  · exact execBusWrite_of_error (transferTarget_of_out_of_range hv hr)
  · exact ⟨_, execBusWrite_of_ok (transferTarget_of_valid hv hr), Memory.read_write_same _ v,
      fun _ => Memory.read_write_other s.mem v, rfl⟩

/-! ### Latch, write, read (E9) -/

/-- Latched once, the address serves both transfers (R114). -/
theorem run_latchWriteRead {s : State} {a : BusAddr} {v : Byte} {rest : List Input} (hf : s.faulted = false)
    (ha : a.toNat < addressSpaceSize) (hin : s.input = commands [.busLatch a, .busWrite v, .busRead] ++ rest) :
    Host.Core.run Sys2Proof.core 3 s = .next { s with
      mem := s.mem.write a.toNat v, latch := a, latchValid := true, input := rest
      response := some (.value ((s.mem.write a.toNat v).read a.toNat)) } :=
  calc Host.Core.run Sys2Proof.core 3 s
    _ = Host.Core.run Sys2Proof.core 2 { s with
          latch := a, latchValid := true, input := commands [.busWrite v, .busRead] ++ rest
          response := some .written } := run_of_commands hf hin rfl
    _ = Host.Core.run Sys2Proof.core 1 { s with
          mem := s.mem.write a.toNat v, latch := a, latchValid := true, input := commands [.busRead] ++ rest
          response := some .written } := run_of_commands hf rfl (execBusWrite_of_ok (transferTarget_of_valid rfl ha))
    _ = _ := run_of_commands (is := []) hf rfl (execBusRead_of_ok (transferTarget_of_valid rfl ha))

/-- Settles O11: the run's answer is a read at the address just written. -/
theorem latchWriteReadRoundTrip : Obligations.LatchWriteReadRoundTrip := by
  intro s a v rest hf hmem ha hin
  have hread := Memory.read_write_same a.toNat v hmem
  exact ⟨_, run_latchWriteRead hf ha hin, by rw [hread], hread, fun _ => Memory.read_write_other s.mem v, rfl⟩

end Sys2Proof.Machine

/-! PROOFS. The register file family (`42_register_file.md`): the general-purpose registers with their byte views, and
the pointer registers. -/

namespace Sys2Proof

/-! ### The words of the commands (R81, R131 to R138) -/

/-- The word of a command that selects a register and has no operand. -/
theorem Fields.toWord_opc_sel (opc : BitVec 6) (sel : BitVec 4) :
    ({ opc, sel } : Fields).toWord = (opc.setWidth 64 <<< 58) ||| (sel.setWidth 64 <<< 54) := by
  simp [Fields.toWord]

/-- The word of a command that selects a register and has an operand of `n` bits. -/
theorem Fields.toWord_opc_sel_imm {n : Nat} (hn : n ≤ 32) (opc : BitVec 6) (sel : BitVec 4) (v : BitVec n) :
    ({ opc, sel, imm := v.setWidth 32 } : Fields).toWord =
      (opc.setWidth 64 <<< 58) ||| (sel.setWidth 64 <<< 54) ||| v.setWidth 64 := by
  simp [Fields.toWord, BitVec.setWidth_setWidth (u := n) (v := 32) (w := 64) (by omega)]

theorem encode_regRead (r : Gpr) : encode (.regRead r) = 0x6000000000000000 ||| (r.code.setWidth 64 <<< 54) :=
  Fields.toWord_opc_sel 0x18 r.code

theorem encode_regWrite (r : Gpr) (v : Word) :
    encode (.regWrite r v) = 0x6400000000000000 ||| (r.code.setWidth 64 <<< 54) ||| v.setWidth 64 :=
  Fields.toWord_opc_sel_imm (by decide) 0x19 r.code v

theorem encode_regReadLo (r : Gpr) : encode (.regReadLo r) = 0x6800000000000000 ||| (r.code.setWidth 64 <<< 54) :=
  Fields.toWord_opc_sel 0x1A r.code

theorem encode_regReadHi (r : Gpr) : encode (.regReadHi r) = 0x6C00000000000000 ||| (r.code.setWidth 64 <<< 54) :=
  Fields.toWord_opc_sel 0x1B r.code

theorem encode_regWriteLo (r : Gpr) (b : Byte) :
    encode (.regWriteLo r b) = 0x7000000000000000 ||| (r.code.setWidth 64 <<< 54) ||| b.setWidth 64 :=
  Fields.toWord_opc_sel_imm (by decide) 0x1C r.code b

theorem encode_regWriteHi (r : Gpr) (b : Byte) :
    encode (.regWriteHi r b) = 0x7400000000000000 ||| (r.code.setWidth 64 <<< 54) ||| b.setWidth 64 :=
  Fields.toWord_opc_sel_imm (by decide) 0x1D r.code b

theorem encode_ptrRead (p : PtrReg) : encode (.ptrRead p) = 0x7800000000000000 ||| (p.code.setWidth 64 <<< 54) :=
  Fields.toWord_opc_sel 0x1E p.code

theorem encode_ptrWrite (p : PtrReg) (v : Word) :
    encode (.ptrWrite p v) = 0x7C00000000000000 ||| (p.code.setWidth 64 <<< 54) ||| v.setWidth 64 :=
  Fields.toWord_opc_sel_imm (by decide) 0x1F p.code v

end Sys2Proof

namespace Sys2Proof.Machine

/-! ### The byte views of a register (R25, R133 to R136) -/

/-- A register is its two bytes. -/
theorem highByte_append_lowByte (v : Word) : highByte v ++ lowByte v = v := BitVec.extractLsb'_append_extractLsb'

@[simp] theorem lowByte_append (hi lo : Byte) : lowByte (hi ++ lo) = lo := BitVec.extractLsb'_append_eq_right

@[simp] theorem highByte_append (hi lo : Byte) : highByte (hi ++ lo) = hi := BitVec.extractLsb'_append_eq_left

theorem and_lowMask (v : Word) : v &&& 0x00FF = 0#8 ++ lowByte v :=
  calc v &&& 0x00FF
    _ = (highByte v ++ lowByte v) &&& (0#8 ++ BitVec.allOnes 8) := by rw [highByte_append_lowByte]; rfl
    _ = 0#8 ++ lowByte v := by rw [BitVec.and_append, BitVec.and_zero, BitVec.and_allOnes]

theorem and_highMask (v : Word) : v &&& 0xFF00 = highByte v ++ 0#8 :=
  calc v &&& 0xFF00
    _ = (highByte v ++ lowByte v) &&& (BitVec.allOnes 8 ++ 0#8) := by rw [highByte_append_lowByte]; rfl
    _ = highByte v ++ 0#8 := by rw [BitVec.and_append, BitVec.and_zero, BitVec.and_allOnes]

theorem lowByte_eq_and (v : Word) : lowByte v = (v &&& 0xFF).setWidth 8 := by
  rw [and_lowMask, BitVec.setWidth_append_eq_right]

theorem highByte_eq_shiftRight_and (v : Word) : highByte v = ((v >>> 8) &&& 0xFF).setWidth 8 := by
  rw [← lowByte_eq_and]
  rfl

/-- A low byte write puts its byte beside the high byte (R135). -/
theorem withLowByte_eq_append (v : Word) (b : Byte) : withLowByte v b = highByte v ++ b := by
  have hb : b.setWidth 16 = 0#8 ++ b := BitVec.setWidth_eq_append (by decide)
  calc withLowByte v b
    _ = (highByte v ++ 0#8) ||| (0#8 ++ b) := congrArg₂ (· ||| ·) (and_highMask v) hb
    _ = highByte v ++ b := by rw [BitVec.or_append, BitVec.or_zero, BitVec.zero_or]

/-- A high byte write puts its byte beside the low byte: no bit of `b` is lost by the shift (R136). -/
theorem withHighByte_eq_append (v : Word) (b : Byte) : withHighByte v b = b ++ lowByte v := by
  have hb : b.setWidth 16 <<< 8 = b ++ 0#8 := by
    simpa using (BitVec.setWidth_append_eq_shiftLeft_setWidth_or (w'' := 16) (b := b) (b' := 0#8)).symm
  calc withHighByte v b
    _ = (0#8 ++ lowByte v) ||| (b ++ 0#8) := congrArg₂ (· ||| ·) (and_lowMask v) hb
    _ = b ++ lowByte v := by rw [BitVec.or_append, BitVec.or_zero, BitVec.zero_or]

/-! ### The rules of the writes (R132, R135, R136, R138) -/

theorem exec_regWrite (r : Gpr) (v : Word) (s : State) :
    exec (.regWrite r v) s = .next ((s.setGpr r v).respond 0 false) := rfl

theorem exec_regWriteLo (r : Gpr) (b : Byte) (s : State) :
    exec (.regWriteLo r b) s = .next ((s.setGpr r (withLowByte (s.gpr.get r) b)).respond 0 false) := rfl

theorem exec_regWriteHi (r : Gpr) (b : Byte) (s : State) :
    exec (.regWriteHi r b) s = .next ((s.setGpr r (withHighByte (s.gpr.get r) b)).respond 0 false) := rfl

theorem exec_ptrWrite (p : PtrReg) (v : Word) (s : State) :
    exec (.ptrWrite p v) s = .next ((s.setPtr p v).respond 0 false) := rfl

/-- The translator reads the segment registers and `IP`, and nothing else of the state (R172). -/
theorem translatedAddress_congr {s t : State} (hseg : t.seg = s.seg) (hip : t.ip = s.ip) (mode : AddrMode) (o : Bool)
    (ovr off : Word) : translatedAddress mode o ovr off t = translatedAddress mode o ovr off s := by
  simp only [translatedAddress, segSel, offsetSel, hseg, hip]

/-! ### The obligations -/

/-- Settles O24: each read answers its register or byte, from the state as it is. -/
theorem registerReads : Obligations.RegisterReads :=
  fun r _ => ⟨encode_regRead r, encode_regReadLo r, encode_regReadHi r, rfl, rfl, rfl⟩

/-- Settles O25: the two bytes of the value written are its masked parts. -/
theorem registerWrite : Obligations.RegisterWrite := by
  intro r v s
  have hget : (s.gpr.set r v).get r = v := GprFile.get_set_same _ r v
  refine ⟨encode_regWrite r v, _, exec_regWrite r v s, hget, ?_, ?_, fun _ h => GprFile.get_set_other _ h v, rfl⟩
  · exact (congrArg lowByte hget).trans (lowByte_eq_and v)
  · exact (congrArg highByte hget).trans (highByte_eq_shiftRight_and v)

/-- Settles O26: the register written is the new byte beside the other byte of the old one. -/
theorem registerByteWrites : Obligations.RegisterByteWrites := by
  intro r b s
  refine ⟨encode_regWriteLo r b, encode_regWriteHi r b, ⟨_, exec_regWriteLo r b s, ?_⟩, ⟨_, exec_regWriteHi r b s, ?_⟩⟩
  · exact ⟨GprFile.get_set_same _ r _, by simp [withLowByte_eq_append], by simp [withLowByte_eq_append],
      fun _ h => GprFile.get_set_other _ h _, rfl⟩
  · exact ⟨GprFile.get_set_same _ r _, by simp [withHighByte_eq_append], by simp [withHighByte_eq_append],
      fun _ h => GprFile.get_set_other _ h _, rfl⟩

/-- Settles O27: a write to a pointer register leaves the segment registers and `IP` alone. -/
theorem pointerRegisterCommands : Obligations.PointerRegisterCommands := fun p v s =>
  ⟨encode_ptrRead p, encode_ptrWrite p v, rfl, _, exec_ptrWrite p v s, PtrFile.get_set_same _ p v,
    fun _ h => PtrFile.get_set_other _ h v, rfl, translatedAddress_congr rfl rfl⟩

end Sys2Proof.Machine

/-! PROOFS. The flag family (`43_flags.md`): reading and writing a flag, and what else may change one. -/

namespace Sys2Proof

/-! ### The words of the commands (R81, R160, R161) -/

theorem encode_flagRead (f : Flag) : encode (.flagRead f) = 0x8000000000000000 ||| (f.code.setWidth 64 <<< 54) :=
  Fields.toWord_opc_sel 0x20 f.code

theorem encode_flagWrite (f : Flag) (x : Bool) :
    encode (.flagWrite f x) =
      0x8400000000000000 ||| (f.code.setWidth 64 <<< 54) ||| (BitVec.ofBool x).setWidth 64 :=
  Fields.toWord_opc_sel_imm (by decide) 0x21 f.code (BitVec.ofBool x)

end Sys2Proof

namespace Sys2Proof.Machine

/-! ### FLAG_READ and FLAG_WRITE (R160 to R162) -/

theorem exec_flagWrite (f : Flag) (x : Bool) (s : State) :
    exec (.flagWrite f x) s = .next ((s.setFlag f x).respond 0 false) := rfl

/-- A write changes no flag but its own. -/
theorem FlagBank.eq_of_get_set_ne {b : FlagBank} {f g : Flag} {x : Bool} (h : (b.set f x).get g ≠ b.get g) : g = f := by
  by_contra hg
  exact h (FlagBank.get_set_other b hg x)

/-- Settles O42: of the commands, only the rule of FLAG_WRITE changes a flag, and only its own. -/
theorem flagChangesOnlyByFlagWrite : Obligations.FlagChangesOnlyByFlagWrite := by
  intro s t g h hne
  rcases step_changes_field (fun s => s.flags.get g) h hne with ⟨i, rest, hruns, hi⟩ | hreset
  · obtain ⟨-, -, -, -, -, -, -, hflags | ⟨f, x, rfl, hflags⟩⟩ := exec_effects hi <;> rw [hflags] at hne
    · exact absurd rfl hne
    · obtain rfl := FlagBank.eq_of_get_set_ne hne
      exact .inl ⟨x, hruns, by rw [hflags, FlagBank.get_set_same]⟩
  · exact .inr hreset

/-- Settles O28: FLAG_READ answers from the state as it is; FLAG_WRITE leaves the other flags, the segment registers and
`IP` alone. -/
theorem flagCommands : Obligations.FlagCommands := fun f x s =>
  ⟨encode_flagRead f, encode_flagWrite f x, rfl, _, exec_flagWrite f x s, FlagBank.get_set_same _ f x,
    fun _ h => FlagBank.get_set_other _ h x, rfl, translatedAddress_congr rfl rfl⟩

end Sys2Proof.Machine

/-! PROOFS. The address generation family (`44_address_generation.md`): the translation formula, and the rule of a
translation command. -/

namespace Sys2Proof

/-! ### The words of the commands (R81, R173 to R178) -/

/-- The word of a translation: its opcode, the options of the segment multiplexer and the latch, and its offset. -/
theorem Fields.toWord_opc_options_off (opc : BitVec 6) (o l : Bool) (ovr off : Word) :
    ({ opc, o, l, ovr, imm := off.setWidth 32 } : Fields).toWord =
      (opc.setWidth 64 <<< 58) ||| (((BitVec.ofBool o).setWidth 64 <<< 53) |||
        ((BitVec.ofBool l).setWidth 64 <<< 52) ||| (ovr.setWidth 64 <<< 32)) ||| off.setWidth 64 := by
  simp [Fields.toWord, BitVec.or_assoc, BitVec.setWidth_setWidth (u := 16) (v := 32) (w := 64) (by decide)]

/-- A translation of the fetch mode has no offset field: it is the word with offset 0. -/
theorem encode_xlatFetch (o l : Bool) (ovr : Word) :
    encode (.xlatFetch o l ovr) = 0x2000000000000000 ||| (((BitVec.ofBool o).setWidth 64 <<< 53) |||
      ((BitVec.ofBool l).setWidth 64 <<< 52) ||| (ovr.setWidth 64 <<< 32)) :=
  (Fields.toWord_opc_options_off 0x08 o l ovr 0).trans BitVec.or_zero

end Sys2Proof

namespace Sys2Proof.Machine

/-! ### The translation formula (R170, R180) -/

/-- The sum of the formula fits in 21 bits. -/
theorem toNat_physicalAddress (seg off : Word) :
    (physicalAddress seg off).toNat = seg.toNat * 16 + off.toNat := by
  have hseg : seg.toNat < 65536 := seg.isLt
  have hoff : off.toNat < 65536 := off.isLt
  rw [physicalAddress, BitVec.toNat_add, BitVec.toNat_shiftLeft, BitVec.toNat_setWidth_of_le (by decide),
    BitVec.toNat_setWidth_of_le (by decide), Nat.shiftLeft_eq]
  omega

/-- The largest address is that of FFFF:FFFF. -/
theorem toNat_physicalAddress_le (seg off : Word) : (physicalAddress seg off).toNat ≤ 0x10FFEF := by
  have hseg : seg.toNat < 65536 := seg.isLt
  have hoff : off.toNat < 65536 := off.isLt
  rw [toNat_physicalAddress]
  omega

/-- A paragraph less in the segment is sixteen bytes more in the offset. -/
theorem physicalAddress_alias {seg off seg' off' : Word} {k : Nat} (hseg : seg'.toNat + k = seg.toNat)
    (hoff : off'.toNat = off.toNat + 16 * k) : physicalAddress seg' off' = physicalAddress seg off := by
  apply BitVec.eq_of_toNat_eq
  rw [toNat_physicalAddress, toNat_physicalAddress]
  omega

/-- The shifted segment has no bit in the low nibble. -/
theorem lowNibble_physicalAddress (seg off : Word) :
    (physicalAddress seg off).extractLsb' 0 4 = off.extractLsb' 0 4 := by
  apply BitVec.eq_of_toNat_eq
  rw [BitVec.extractLsb'_toNat, BitVec.extractLsb'_toNat, toNat_physicalAddress, Nat.shiftRight_zero,
    Nat.shiftRight_zero]
  omega

/-- Settles O12: the formula is the definition, and its sum does not wrap. -/
theorem physicalAddressFormula : Obligations.PhysicalAddressFormula :=
  fun seg off => ⟨rfl, toNat_physicalAddress seg off, toNat_physicalAddress_le seg off⟩

/-- Settles O13: the range clauses are arithmetic on the address as a number, which the formula never reduces. -/
theorem translationLaws : Obligations.TranslationLaws := by
  intro seg off
  have hpa := toNat_physicalAddress seg off
  have hoff : off.toNat < 65536 := off.isLt
  refine ⟨toNat_physicalAddress_le seg off, by rw [hpa], fun hseg => ?_, fun hseg hlarge => ?_,
    fun _ _ _ => physicalAddress_alias, lowNibble_physicalAddress seg off⟩
  · omega
  · omega

/-! ### The rule of a translation (R172) -/

/-- Every translation answers its address, latches it exactly when `L = 1`, and leaves the rest of the state alone. -/
theorem translate_eq_translated (mode : AddrMode) (o l : Bool) (ovr off : Word) (s : State) :
    translate mode o l ovr off s = .next (s.translated l (translatedAddress mode o ovr off s)) := by
  cases l <;> rfl

/-- The six translation commands are one rule; that of the fetch mode has no offset, and reads none. -/
theorem exec_xlat (mode : AddrMode) (o l : Bool) (ovr off : Word) (s : State) :
    exec (.xlat mode o l ovr off) s = .next (s.translated l (translatedAddress mode o ovr off s)) := by
  rw [← translate_eq_translated]
  cases mode <;> rfl

/-! ### The segment multiplexer of the modes with an override (R171, R179) -/

section
variable {mode : AddrMode} (hmode : mode = .strSrc ∨ mode = .data ∨ mode = .bpData) (ovr off : Word) (s : State)
include hmode

theorem translatedAddress_override : translatedAddress mode true ovr off s = physicalAddress ovr off := by
  rcases hmode with rfl | rfl | rfl <;> rfl

theorem translatedAddress_default :
    translatedAddress mode false ovr off s = physicalAddress (s.seg.get (defaultSeg mode)) off := by
  rcases hmode with rfl | rfl | rfl <;> rfl

end

/-! ### The obligations on the commands -/

/-- Settles O14: in a mode without an override the multiplexer passes the default segment on. -/
theorem fixedSegmentTranslations : Obligations.FixedSegmentTranslations := fun o l ovr off s =>
  ⟨encode_xlatFetch o l ovr, Fields.toWord_opc_options_off 0x09 o l ovr off,
    Fields.toWord_opc_options_off 0x0B o l ovr off, exec_xlat .fetch o l ovr off s, exec_xlat .stack o l ovr off s,
    exec_xlat .strDst o l ovr off s⟩

/-- Settles O15: in a mode with an override the multiplexer follows `O`. -/
theorem overridableTranslations : Obligations.OverridableTranslations := fun o l ovr off s =>
  ⟨Fields.toWord_opc_options_off 0x0A o l ovr off, Fields.toWord_opc_options_off 0x0C o l ovr off,
    Fields.toWord_opc_options_off 0x0D o l ovr off, exec_xlat .strSrc o l ovr off s, exec_xlat .data o l ovr off s,
    exec_xlat .bpData o l ovr off s⟩

/-- Settles O16: the first translation leaves the segment registers as they are, and the second reads its default
there. -/
theorem overrideIsNotStored : Obligations.OverrideIsNotStored := by
  intro mode mode' l l' ovr ovr' off off' s hmode hmode'
  refine ⟨_, exec_xlat mode true l ovr off s, ?_, rfl, ?_⟩
  · rw [translatedAddress_override hmode]
  · rw [exec_xlat, translatedAddress_default hmode']
    rfl

/-- Settles O17: the answer of the translation is its address on the bus, which is what `L = 1` latches. -/
theorem latchBitIsTranslationThenLatch : Obligations.LatchBitIsTranslationThenLatch := fun mode o ovr off s =>
  ⟨_, _, _, exec_xlat mode o false ovr off s, rfl, rfl, exec_xlat mode o true ovr off s⟩

/-- Settles O18: the address depends on the segment registers and `IP` only, and the answer and the latch are made from
it. -/
theorem translationReadsOnlySegmentsAndIp : Obligations.TranslationReadsOnlySegmentsAndIp := by
  intro mode o l ovr off s s' hseg hip
  refine ⟨_, _, exec_xlat mode o l ovr off s, exec_xlat mode o l ovr off s', ?_⟩
  rw [translatedAddress_congr hseg hip]
  refine ⟨rfl, ?_⟩
  rintro rfl
  exact ⟨rfl, rfl⟩

end Sys2Proof.Machine

/-! PROOFS. The register and queue family (`45_biu_registers_queue.md`): the segment registers, `IP` and the prefetch
queue. -/

namespace Sys2Proof

/-! ### The words of the commands (R81, R201 to R206) -/

theorem encode_segRead (r : SegReg) : encode (.segRead r) = 0x4000000000000000 ||| (r.code.setWidth 64 <<< 54) :=
  Fields.toWord_opc_sel 0x10 r.code

theorem encode_segWrite (r : SegReg) (v : Word) :
    encode (.segWrite r v) = 0x4400000000000000 ||| (r.code.setWidth 64 <<< 54) ||| v.setWidth 64 :=
  Fields.toWord_opc_sel_imm (by decide) 0x11 r.code v

theorem encode_ipRead : encode .ipRead = 0x4800000000000000 := rfl

theorem encode_ipWrite (v : Word) : encode (.ipWrite v) = 0x4C00000000000000 ||| v.setWidth 64 :=
  (Fields.toWord_opc_imm 0x13 (v.setWidth 32)).trans (congrArg (_ ||| ·) (BitVec.setWidth_setWidth (by decide)))

theorem encode_pqPush (b : Byte) : encode (.pqPush b) = 0x5000000000000000 ||| b.setWidth 64 :=
  (Fields.toWord_opc_imm 0x14 (b.setWidth 32)).trans (congrArg (_ ||| ·) (BitVec.setWidth_setWidth (by decide)))

theorem encode_pqPop : encode .pqPop = 0x5400000000000000 := rfl

end Sys2Proof

namespace Sys2Proof.Machine

/-! ### The segment registers and `IP` (R201 to R204) -/

theorem exec_segWrite (r : SegReg) (v : Word) (s : State) :
    exec (.segWrite r v) s = .next ((s.setSeg r v).respond 0 false) := rfl

/-- Without an override the multiplexer passes the default segment on, in every mode. -/
theorem segSel_default (mode : AddrMode) (ovr : Word) (s : State) :
    segSel mode false ovr s = s.seg.get (defaultSeg mode) := by
  rw [segSel, Bool.and_false, if_neg (by decide)]

/-- Settles O19: the translation after a write reads the register written, which the write leaves with its value. -/
theorem segmentRegisterCommands : Obligations.SegmentRegisterCommands := by
  intro r v s
  have hget : (s.seg.set r v).get r = v := SegFile.get_set_same _ r v
  refine ⟨encode_segRead r, encode_segWrite r v, rfl, _, exec_segWrite r v s, hget,
    fun _ h => SegFile.get_set_other _ h v, rfl, ?_⟩
  rintro mode l ovr off rfl
  rw [exec_xlat, translatedAddress, segSel_default, State.respond_seg, State.setSeg_seg, hget]

/-- Settles O20: the rule of IP_WRITE writes `IP` only. -/
theorem instructionPointerCommands : Obligations.InstructionPointerCommands :=
  fun v _ => ⟨encode_ipRead, encode_ipWrite v, rfl, rfl⟩

/-! ### One push and one pop (R205, R206) -/

theorem State.queueFull_eq_false {s : State} :
    s.queueFull = false ↔ s.params.pqCap = .unbounded ∨ ∃ n, s.params.pqCap = .bounded n ∧ s.pq.length ≠ n := by
  unfold State.queueFull
  split
  · next h => simp [h]
  · next n h => simp [h, eq_comm]

/-- Settles O21: by whether the queue is full. -/
theorem pushAppendsAtTail : Obligations.PushAppendsAtTail := by
  intro b s
  rw [← encode_pqPush]
  refine ⟨rfl, fun n hcap hlen => ?_, fun hroom => ?_⟩
  · exact execPqPush_of_full (State.queueFull_eq_true.mpr ⟨n, hcap, hlen⟩)
  · exact execPqPush_of_room (State.queueFull_eq_false.mpr hroom)

/-- Settles O22: by whether the queue is empty. -/
theorem popTakesOldest : Obligations.PopTakesOldest :=
  ⟨encode_pqPop, fun _ => ⟨execPqPop_of_empty, fun _ _ => execPqPop_of_cons⟩⟩

/-! ### Pushes, then pops (R207, E8) -/

/-- A queue shorter than a length within the capacity has room. -/
theorem State.queueFull_eq_false_of_holds {s : State} {n : Nat} (h : s.params.pqCap.holds n = true)
    (hn : s.pq.length < n) : s.queueFull = false := by
  refine State.queueFull_eq_false.mpr ?_
  cases hcap : s.params.pqCap with
  | unbounded => exact .inl rfl
  | bounded m =>
    have hm : n ≤ m := by simpa [hcap, QueueCap.holds] using h
    exact .inr ⟨m, rfl, by omega⟩

/-- Bytes pushed into a queue with room for all of them are appended in order, by induction on the bytes. -/
theorem run_pushes {bs : List Byte} {is : List Instr} {s : State} {rest : List Input} (hf : s.faulted = false)
    (hroom : s.params.pqCap.holds (s.pq.length + bs.length) = true)
    (hin : s.input = commands (bs.map .pqPush ++ is) ++ rest) :
    ∃ r, Host.Core.run Sys2Proof.core bs.length s =
      .next { s with pq := s.pq ++ bs, input := commands is ++ rest, response := r } := by
  induction bs generalizing s with
  | nil =>
    have hin : s.input = commands is ++ rest := hin
    exact ⟨s.response, by rw [List.append_nil, ← hin]; rfl⟩
  | cons b bs ih =>
    have hfull : s.queueFull = false := State.queueFull_eq_false_of_holds hroom (by simp)
    have hroom' : s.params.pqCap.holds ((s.pq ++ [b]).length + bs.length) = true := by
      rwa [List.length_append, List.length_singleton, Nat.add_assoc, Nat.add_comm 1]
    obtain ⟨r, hr⟩ := ih (s := { s with pq := s.pq ++ [b], input := _, response := some .written }) hf hroom' rfl
    refine ⟨r, (run_of_commands hf hin (execPqPush_of_room hfull)).trans (hr.trans ?_)⟩
    simp only [List.append_assoc, List.singleton_append]

/-- The last of `k + 1` pops answers the byte at place `k`, and the bytes behind it stay in order, by induction on the
queue. -/
theorem run_pops {q : List Byte} {k : Nat} {s : State} {rest : List Input} (hf : s.faulted = false) (hq : s.pq = q)
    (hk : k < q.length) (hin : s.input = commands (List.replicate (k + 1) .pqPop) ++ rest) :
    Host.Core.run Sys2Proof.core (k + 1) s =
      .next { s with pq := q.drop (k + 1), input := rest, response := some (.value q[k]) } := by
  induction q generalizing k s with
  | nil => exact absurd hk (Nat.not_lt_zero k)
  | cons b q ih =>
    rw [run_pop_cons hf hq hin]
    cases k with
    | zero => rfl
    | succ k => exact ih (s := { s with pq := q, input := _, response := _ }) hf rfl (Nat.lt_of_succ_lt_succ hk) rfl

/-- Settles O23: the pushes leave the bytes queued in order, and the pops take them from the head. -/
theorem queueIsFirstInFirstOut : Obligations.QueueIsFirstInFirstOut := by
  intro s bs k hk rest hf hempty hroom hin
  obtain ⟨r, hpushes⟩ := run_pushes hf (by simpa [hempty] using hroom) hin
  rw [hempty, List.nil_append] at hpushes
  exact (run_add hpushes).trans (run_pops (s := { s with pq := bs, input := _, response := r }) hf rfl hk rfl)

end Sys2Proof.Machine

/-! PROOFS. The exceptions family (`60_exceptions.md`): the fault a command takes, and the block after a fault. -/

namespace Sys2Proof

/-! ### The words that decode (R85, R234) -/

theorem legal_of_decode {w : CommandWord} {i : Instr} (h : decode w = .ok i) : (Fields.ofWord w).legal = true :=
  encodeFields_of_decodeFields h ▸ encodeFields_legal i

theorem exists_decode_iff_legal (w : CommandWord) : (∃ i, decode w = .ok i) ↔ (Fields.ofWord w).legal = true :=
  ⟨fun ⟨_, h⟩ => legal_of_decode h, decodeFields_of_legal⟩

theorem exists_decode_error_of_illegal {w : CommandWord} (h : (Fields.ofWord w).legal = false) :
    ∃ e, decode w = .error e := by
  cases hd : decode w with
  | error e => exact ⟨e, rfl⟩
  | ok i => exact absurd (legal_of_decode hd) (by simp [h])

/-! ### Opcodes of the commands that can fault (R83, R230) -/

theorem Instr.isTransfer_eq_opc (i : Instr) :
    i.isTransfer = ((encodeFields i).opc == 0x02 || (encodeFields i).opc == 0x03) := by
  cases i <;> rfl

theorem Instr.opc_eq_push_iff (i : Instr) : (encodeFields i).opc = 0x14#6 ↔ ∃ b, i = .pqPush b := by
  cases i <;> simp [encodeFields]

end Sys2Proof

namespace Sys2Proof.Machine

/-- Settles O5: the table's words decode, a word that decodes is the table's, and any other is raised before its rule. -/
theorem legalWordsExactly : Obligations.LegalWordsExactly := by
  refine ⟨exists_decode_iff_legal, fun w s hf hl => ?_⟩
  obtain ⟨e, he⟩ := exists_decode_error_of_illegal hl
  exact runCommand_of_illegal hf he

/-! ### The fault a command takes (R230, R237) -/

theorem expectedFault_of_illegal {w : CommandWord} (h : (Fields.ofWord w).legal = false) (s : State) :
    expectedFault w s = some (.illegalCommand, 0) := if_pos h

/-- On a word that means `i`, the conditions of R230 on the raw fields are those on which the rule of `i` faults. -/
theorem expectedFault_eq_some_iff {w : CommandWord} {i : Instr} (h : decode w = .ok i) {s : State} {c : FaultCause}
    {a : BusAddr} :
    expectedFault w s = some (c, a) ↔
      (i.isTransfer = true ∧ transferTarget s = .error (c, a)) ∨
        ∃ b, i = .pqPush b ∧ s.queueFull = true ∧ c = .queueOverflow ∧ a = 0 := by
  have hopc : (Fields.ofWord w).opc = (encodeFields i).opc := by rw [encodeFields_of_decodeFields h]
  simp only [expectedFault, legal_of_decode h, hopc, ← Instr.isTransfer_eq_opc, exists_and_right,
    ← Instr.opc_eq_push_iff]
  cases htr : i.isTransfer with
  | true =>
    have hpush : (encodeFields i).opc ≠ 0x14#6 := by
      intro hpush
      obtain ⟨b, rfl⟩ := i.opc_eq_push_iff.mp hpush
      cases htr
    rcases transferTarget_cases s with ⟨hv, ht⟩ | ⟨hv, hr, ht⟩ | ⟨hv, hr, ht⟩
    · simp [hv, ht, hpush]
    · simp [hv, ht, hpush, hr]
    · simp [hv, ht, hpush, Nat.not_le.mpr hr]
  | false => simp [and_assoc, eq_comm (a := c), eq_comm (a := a)]

/-- Everything a word can do to a block that has not faulted: take the fault of R237 and nothing more, or answer `OK`
where R237 names none. -/
theorem runCommand_cases_of_not_faulted (w : CommandWord) {s : State} (hf : s.faulted = false) :
    (∃ c a, c ≠ .noFault ∧ expectedFault w s = some (c, a) ∧ runCommand w s = .next (s.takeFault w c a)) ∨
    (∃ (t : State) (d : BitVec 32) (v : Bool), expectedFault w s = none ∧ runCommand w s = .next (t.respond d v) ∧
      t.faulted = false ∧ t.fcause = s.fcause ∧ t.fcmd = s.fcmd ∧ t.faddr = s.faddr) := by
  cases hd : decode w with
  | error e =>
    exact .inl ⟨.illegalCommand, 0, nofun, expectedFault_of_illegal (legal_eq_false_of_decode_error hd) s,
      runCommand_of_illegal hf hd⟩
  | ok i =>
    have hrun := runCommand_of_decode hf hd
    rcases exec_cases i s with ⟨c, a, hc, hcond, he⟩ | ⟨t, d, v, he, htr, hpush, -, ht, hcause, hcmd, haddr, -⟩
    · rw [encodeDecode w i hd] at he
      exact .inl ⟨c, a, hc, (expectedFault_eq_some_iff hd).mpr hcond, hrun.trans he⟩
    · refine .inr ⟨t, d, v, ?_, hrun.trans he, ht.trans hf, hcause, hcmd, haddr⟩
      refine Option.eq_none_iff_forall_ne_some.mpr fun ⟨c, a⟩ hsome => ?_
      rcases (expectedFault_eq_some_iff hd).mp hsome with ⟨hi, herr⟩ | ⟨b, hi, hfull, -⟩
      · obtain ⟨target, hok⟩ := htr hi
        cases hok.symm.trans herr
      · cases (hpush b hi).symm.trans hfull

/-- Settles O30: a block that faults on a word has done so by fault entry with that word. -/
theorem faultEntryWritesOnlyStatus : Obligations.FaultEntryWritesOnlyStatus := by
  intro w s t hf hrun ht
  rcases runCommand_cases_of_not_faulted w hf with ⟨c, a, hc, -, he⟩ | ⟨u, d, v, -, he, hu, -⟩ <;>
    cases he.symm.trans hrun
  · exact ⟨hc, rfl, rfl, rfl⟩
  · cases hu.symm.trans ht

/-- Settles O31: the fault expected is the one taken, and where none is the answer is `OK`. -/
theorem faultChosenByPriority : Obligations.FaultChosenByPriority := by
  refine fun w s => ⟨runCommand_of_faulted, fun hf cause addr hexp => ?_, fun hf hexp => ?_⟩
  · rcases runCommand_cases_of_not_faulted w hf with ⟨c, a, -, hc, he⟩ | ⟨t, d, v, hnone, -⟩
    · cases hc.symm.trans hexp
      exact he
    · cases hnone.symm.trans hexp
  · rcases runCommand_cases_of_not_faulted w hf with ⟨c, a, -, hc, -⟩ | ⟨t, d, v, -, he, ht, hstatus⟩
    · cases hc.symm.trans hexp
    · exact ⟨_, _, he, ht, rfl, rfl, hstatus⟩

/-! ### The block after a fault (R236, R240, R241) -/

/-- Settles O32: a command is refused whatever its word, and a refusal leaves the fault as it is; a reset clears it. -/
theorem faultedBlockRefuses : Obligations.FaultedBlockRefuses := by
  refine fun s hf => ⟨fun w => runCommand_of_faulted hf, fun x t hx ht => ?_, fun d => ⟨s.takeReset d, rfl, rfl⟩⟩
  cases x with
  | reset d => exact ⟨d, rfl⟩
  | command w =>
    cases (runCommand_of_faulted hf).symm.trans hx
    cases hf.symm.trans ht

theorem step_of_faulted {s : State} {w : CommandWord} {rest : List Input} (hf : s.faulted = true)
    (hin : s.input = .command w :: rest) : step s = .next (s.setInput rest).refuse :=
  (step_of_command hin).trans (runCommand_of_faulted hf)

/-- A run of one command or more on a faulted block refuses each, by induction on the commands after the first. -/
theorem run_of_faulted {w : CommandWord} {ws : List CommandWord} {s : State} {rest : List Input}
    (hf : s.faulted = true) (hin : s.input = (w :: ws).map .command ++ rest) :
    Host.Core.run Sys2Proof.core (w :: ws).length s = .next { s with input := rest, response := some .refusing } := by
  induction ws generalizing w s with
  | nil => exact run_of_step (step_of_faulted hf hin)
  | cons w' ws ih => exact (run_of_step (step_of_faulted hf hin)).trans (ih hf rfl)

/-- Settles O33: each command of the run is refused. -/
theorem faultIsKeptUntilReset : Obligations.FaultIsKeptUntilReset := by
  intro s ws rest hf hne hin
  cases ws with
  | nil => exact absurd rfl hne
  | cons w ws => exact run_of_faulted hf hin

/-! ### The block never stops (R248) -/

/-- Settles O37: a step does nothing or serves an input, and an input served has a next state. -/
theorem stepAlwaysHasNextState : Obligations.StepAlwaysHasNextState := by
  intro s
  cases hin : s.input with
  | nil => exact ⟨s, step_of_empty hin⟩
  | cons x rest =>
    obtain ⟨t, ht, -⟩ := serve_next_keeps_input_params x (s.setInput rest)
    exact ⟨t, (step_of_input hin).trans ht⟩

end Sys2Proof.Machine

/-! PROOFS. The reset and hazards family (`70_reset_and_hazards.md`): what a reset leaves, and the parameter that no
rule reads. -/

namespace Sys2Proof.Machine

/-! ### Reset (R33, R260) -/

/-- Settles O34: serving a reset is `takeReset`, whose fields are those of R33; its empty memory reads 0x00. -/
theorem resetLeavesEveryField : Obligations.ResetLeavesEveryField := fun s d =>
  ⟨s.takeReset d, rfl, fun _ => rfl, s.takeReset_latchValid d, s.takeReset_seg d, s.takeReset_ip d, s.takeReset_gpr d,
    s.takeReset_ptr d, s.takeReset_flags d, s.takeReset_pq d, s.takeReset_faulted d, s.takeReset_fcause d,
    s.takeReset_fcmd d, s.takeReset_faddr d⟩

/-! ### No rule reads `CPU_MODE` (R5, R262)

Each layer of a step commutes with the choice of the mode: a command's rule, a command word, an input, the step. -/

/-- The same block in the mode `m`. -/
def State.withCpuMode (s : State) (m : CpuMode) : State := { s with params := { s.params with cpuMode := m } }

/-- Rule by rule, the mode decides no branch and enters no effect: the target of a transfer and the room in the queue
are the same in both modes. -/
theorem exec_withCpuMode {i : Instr} {s t : State} (m : CpuMode) (h : exec i s = .next t) :
    exec i (s.withCpuMode m) = .next (t.withCpuMode m) := by
  cases i
  case busRead =>
    rcases execBusRead_cases s with ⟨e, ht, he⟩ | ⟨a, ht, he⟩ <;> cases he.symm.trans h
    · exact execBusRead_of_error ht
    · exact execBusRead_of_ok ht
  case busWrite v =>
    rcases execBusWrite_cases v s with ⟨e, ht, he⟩ | ⟨a, ht, he⟩ <;> cases he.symm.trans h
    · exact execBusWrite_of_error ht
    · exact execBusWrite_of_ok ht
  case pqPush b =>
    rcases execPqPush_cases b s with ⟨hq, he⟩ | ⟨hq, he⟩ <;> cases he.symm.trans h
    · exact execPqPush_of_full hq
    · exact execPqPush_of_room hq
  case pqPop =>
    rcases execPqPop_cases s with ⟨hp, he⟩ | ⟨b, q, hp, he⟩ <;> cases he.symm.trans h
    · exact execPqPop_of_empty hp
    · exact execPqPop_of_cons hp
  case xlatFetch _ l _ | xlatStack _ l _ _ | xlatStrSrc _ l _ _ | xlatStrDst _ l _ _ | xlatData _ l _ _ |
      xlatBpData _ l _ _ =>
    cases h
    cases l <;> rfl
  all_goals
    cases h
    rfl

theorem runCommand_withCpuMode {w : CommandWord} {s t : State} (m : CpuMode) (h : runCommand w s = .next t) :
    runCommand w (s.withCpuMode m) = .next (t.withCpuMode m) := by
  rcases runCommand_cases w s with ⟨hf, he⟩ | ⟨e, hf, hd, he⟩ | ⟨i, hf, hd, he⟩
  · cases he.symm.trans h
    exact runCommand_of_faulted hf
  · cases he.symm.trans h
    exact runCommand_of_illegal hf hd
  · exact (runCommand_of_decode (s := s.withCpuMode m) hf hd).trans (exec_withCpuMode m (he.symm.trans h))

/-- A reset keeps the mode, as it keeps every parameter. -/
theorem serve_withCpuMode {x : Input} {s t : State} (m : CpuMode) (h : serve x s = .next t) :
    serve x (s.withCpuMode m) = .next (t.withCpuMode m) := by
  cases x with
  | command w => exact runCommand_withCpuMode m h
  | reset d =>
    cases h
    rfl

theorem step_withCpuMode {s t : State} (m : CpuMode) (h : step s = .next t) :
    step (s.withCpuMode m) = .next (t.withCpuMode m) := by
  cases hin : s.input with
  | nil =>
    cases (step_of_empty hin).symm.trans h
    exact step_of_empty hin
  | cons x rest =>
    exact (step_of_input (s := s.withCpuMode m) hin).trans (serve_withCpuMode m ((step_of_input hin).symm.trans h))

/-- Settles O52: the step has a next state, and commutes with the choice of the mode. -/
theorem cpuModeIsReadByNoRule : Obligations.CpuModeIsReadByNoRule := by
  intro s m
  obtain ⟨t, ht⟩ := stepAlwaysHasNextState s
  exact ⟨t, ht, step_withCpuMode m ht⟩

end Sys2Proof.Machine
